-- ==== Sys2Proof/Word.lean ====
section
/-! DEFINITION. The words of morse CORE: the widths of spec/00_scope.md R5 and R6, spec/30_encoding.md. -/

namespace Sys2Proof

/-- A 2-bit symbol value (R50: a symbol "has no identity beyond its value"), the reserved value included (R70). -/
abbrev Sym := BitVec 2

/-- A cursor, 2 bits, values 0 to 3 (R14, R20, R70). -/
abbrev Cursor := BitVec 2

/-- One byte of a packed buffer, or one character code of a text (BYTE_W = CHAR_W = 8, R5, R35). -/
abbrev Byte := BitVec 8

/-- A code word, CW_W = 16 bits (R5, R56). -/
abbrev CodeWord := BitVec 16

/-- A buffer: an ordered sequence of 8-bit elements indexed from 0 (R36, R37, R43). -/
abbrev Buffer := List (BitVec 8)

end Sys2Proof
end

