-- ==== Sys2Proof/Config.lean ====
section
/-! DEFINITION. The parameters of morse CORE, each with the value this hardware takes (spec/00_scope.md R5).
SPACE_RULE, which R5 lets a model leave open, is a type here and a field of State (log 5). -/

namespace Sys2Proof

/-- SPACE_RULE (R5, R175, R185): which of the two termination rules DEC follows. -/
inductive SpaceRule where
  /-- An End read while the code word is zero is absorbed (R175), the contract. -/
  | absorb
  /-- Every End terminates a character (R185). -/
  | immediate
deriving DecidableEq, Repr

namespace Config

/-- END (R5, R51): the terminator and the padding value. -/
def symEnd : Sym := 0b00#2

/-- DIT (R5, R51; decision D1, log 6). -/
def dit : Sym := 0b01#2

/-- DAH (R5, R51; decision D1, log 6). -/
def dah : Sym := 0b10#2

/-- RSV (R5, R52): the 2-bit value that is no symbol. -/
def rsv : Sym := 0b11#2

/-- SYM_W (R5). -/
def symW : Nat := 2

/-- SLOTS (R5): symbols in a byte. -/
def slots : Nat := 4

/-- NCHARS (R5, R90): rows of the table. -/
def nChars : Nat := 44

/-- MAXLEN (R5): the longest Dit/Dah sequence of a row. -/
def maxLen : Nat := 6

/-- CW_SLOTS (R5): positions in a code word. -/
def cwSlots : Nat := 8

/-- The value of SPACE_RULE this hardware takes (R5; decision D9, log 5). -/
def spaceRule : SpaceRule := .absorb

/-- The code of space (R58, R147), which DEC_EOS appends (R182). -/
def spaceCode : Byte := 0x20#8

end Config

end Sys2Proof
end

