-- ==== Sys2Proof/Syntax.lean ====
section
/-! DEFINITION. The instructions of morse CORE: one constructor for each of the 66 rows of spec/opcode_table.json
(spec/30_encoding.md R60, R64). The 44 character rows and the 4 symbol rows have bit patterns; the 2 layout rows
are formats; the 16 operations have no opcode bits. -/

namespace Sys2Proof

/-- The two units (R10). -/
inductive UnitId where
  | enc
  | dec
deriving DecidableEq, Repr

/-- One constructor per row of spec/opcode_table.json.

A character row takes the unit that uses it: ENC uses the table from character code to sequence, DEC from code word to
character code (R60, R93). Log 8 says what running a row means. -/
inductive Instr where
  /-- CHAR_A: the row of `A` (R100). -/
  | charA (u : UnitId)
  /-- CHAR_B: the row of `B` (R101). -/
  | charB (u : UnitId)
  /-- CHAR_C: the row of `C` (R102). -/
  | charC (u : UnitId)
  /-- CHAR_D: the row of `D` (R103). -/
  | charD (u : UnitId)
  /-- CHAR_E: the row of `E` (R104). -/
  | charE (u : UnitId)
  /-- CHAR_F: the row of `F` (R105). -/
  | charF (u : UnitId)
  /-- CHAR_G: the row of `G` (R106). -/
  | charG (u : UnitId)
  /-- CHAR_H: the row of `H` (R107). -/
  | charH (u : UnitId)
  /-- CHAR_I: the row of `I` (R108). -/
  | charI (u : UnitId)
  /-- CHAR_J: the row of `J` (R109). -/
  | charJ (u : UnitId)
  /-- CHAR_K: the row of `K` (R110). -/
  | charK (u : UnitId)
  /-- CHAR_L: the row of `L` (R111). -/
  | charL (u : UnitId)
  /-- CHAR_M: the row of `M` (R112). -/
  | charM (u : UnitId)
  /-- CHAR_N: the row of `N` (R113). -/
  | charN (u : UnitId)
  /-- CHAR_O: the row of `O` (R114). -/
  | charO (u : UnitId)
  /-- CHAR_P: the row of `P` (R115). -/
  | charP (u : UnitId)
  /-- CHAR_Q: the row of `Q` (R116). -/
  | charQ (u : UnitId)
  /-- CHAR_R: the row of `R` (R117). -/
  | charR (u : UnitId)
  /-- CHAR_S: the row of `S` (R118). -/
  | charS (u : UnitId)
  /-- CHAR_T: the row of `T` (R119). -/
  | charT (u : UnitId)
  /-- CHAR_U: the row of `U` (R120). -/
  | charU (u : UnitId)
  /-- CHAR_V: the row of `V` (R121). -/
  | charV (u : UnitId)
  /-- CHAR_W: the row of `W` (R122). -/
  | charW (u : UnitId)
  /-- CHAR_X: the row of `X` (R123). -/
  | charX (u : UnitId)
  /-- CHAR_Y: the row of `Y` (R124). -/
  | charY (u : UnitId)
  /-- CHAR_Z: the row of `Z` (R125). -/
  | charZ (u : UnitId)
  /-- CHAR_0: the row of `0` (R130). -/
  | char0 (u : UnitId)
  /-- CHAR_1: the row of `1` (R131). -/
  | char1 (u : UnitId)
  /-- CHAR_2: the row of `2` (R132). -/
  | char2 (u : UnitId)
  /-- CHAR_3: the row of `3` (R133). -/
  | char3 (u : UnitId)
  /-- CHAR_4: the row of `4` (R134). -/
  | char4 (u : UnitId)
  /-- CHAR_5: the row of `5` (R135). -/
  | char5 (u : UnitId)
  /-- CHAR_6: the row of `6` (R136). -/
  | char6 (u : UnitId)
  /-- CHAR_7: the row of `7` (R137). -/
  | char7 (u : UnitId)
  /-- CHAR_8: the row of `8` (R138). -/
  | char8 (u : UnitId)
  /-- CHAR_9: the row of `9` (R139). -/
  | char9 (u : UnitId)
  /-- CHAR_COLON: the row of `:` (R140). -/
  | charColon (u : UnitId)
  /-- CHAR_PERIOD: the row of `.` (R141). -/
  | charPeriod (u : UnitId)
  /-- CHAR_QUESTION: the row of `?` (R142). -/
  | charQuestion (u : UnitId)
  /-- CHAR_SLASH: the row of `/` (R143). -/
  | charSlash (u : UnitId)
  /-- CHAR_HYPHEN: the row of `-` (R144). -/
  | charHyphen (u : UnitId)
  /-- CHAR_LPAREN: the row of `(` (R145). -/
  | charLparen (u : UnitId)
  /-- CHAR_RPAREN: the row of `)` (R146). -/
  | charRparen (u : UnitId)
  /-- CHAR_SPACE: the row of space (R147). -/
  | charSpace (u : UnitId)
  /-- SYM_END: the 2-bit value 0 in DEC's input (R51). -/
  | symEnd
  /-- SYM_DIT: the 2-bit value 1 in DEC's input (R51). -/
  | symDit
  /-- SYM_DAH: the 2-bit value 2 in DEC's input (R51). -/
  | symDah
  /-- SYM_RESERVED: the 2-bit value 3 in DEC's input (R52). -/
  | symReserved
  /-- BYTE: a byte of four symbols, slot 0 first (R53). -/
  | byte (s0 s1 s2 s3 : Sym)
  /-- CODEWORD: a code word of eight positions, position 0 first (R56, R57). -/
  | codeword (p0 p1 p2 p3 p4 p5 p6 p7 : Sym)
  /-- SHIFT(cursor) (R71). -/
  | shift (c : Cursor)
  /-- ADVANCE(cursor) (R72). -/
  | advance (c : Cursor)
  /-- WRITE(symbol, byte, cursor) (R74). -/
  | write (s : Sym) (b : Byte) (c : Cursor)
  /-- READ(byte, cursor) (R75). -/
  | read (b : Byte) (c : Cursor)
  /-- FOLD(code) (R151). -/
  | fold (c : Byte)
  /-- FWD(code), the forward look-up (R152). -/
  | fwd (c : Byte)
  /-- PUT(symbol) (R154). -/
  | put (s : Sym)
  /-- ENC_CHAR, the character step (R156). -/
  | encChar
  /-- ENC_DONE, the end-of-text step (R157). -/
  | encDone
  /-- ENCODE(text), the whole encoder pass (R158). -/
  | encode (text : Buffer)
  /-- PLACE(acc, k, symbol), `k` in 0..7 (R173); `k` has the width of DEC.k (R22). -/
  | place (acc : CodeWord) (k : BitVec 4) (s : Sym)
  /-- REV(word), the reverse look-up (R174). -/
  | rev (w : CodeWord)
  /-- TERMINATES(symbol, acc) (R175, R185). -/
  | terminates (s : Sym) (acc : CodeWord)
  /-- DEC_SYM, the symbol step (R176 to R180). -/
  | decSym
  /-- DEC_EOS, the end-of-stream step (R181 to R183). -/
  | decEos
  /-- DECODE(bytes), the whole decoder pass (R184). -/
  | decode (bytes : Buffer)
deriving DecidableEq, Repr

end Sys2Proof
end

