-- ==== Sys2Proof/WellFormed.lean ====
section
/-! DEFINITION. Which instructions are well formed. Every operand's width is in its type; the one operand whose range is
smaller than its width is PLACE's position count (spec/45_decoder.md R173). -/

namespace Sys2Proof

/-- `k` is an operand of PLACE: "`k` (0..7)" (R173). -/
def placeOperandOk (k : BitVec 4) : Bool := decide (k.toNat < Config.cwSlots)

/-- Well-formed instructions: each constructor, its operands in the range the spec gives them. -/
def Instr.wellFormed : Instr → Bool
  | .charA _ => true
  | .charB _ => true
  | .charC _ => true
  | .charD _ => true
  | .charE _ => true
  | .charF _ => true
  | .charG _ => true
  | .charH _ => true
  | .charI _ => true
  | .charJ _ => true
  | .charK _ => true
  | .charL _ => true
  | .charM _ => true
  | .charN _ => true
  | .charO _ => true
  | .charP _ => true
  | .charQ _ => true
  | .charR _ => true
  | .charS _ => true
  | .charT _ => true
  | .charU _ => true
  | .charV _ => true
  | .charW _ => true
  | .charX _ => true
  | .charY _ => true
  | .charZ _ => true
  | .char0 _ => true
  | .char1 _ => true
  | .char2 _ => true
  | .char3 _ => true
  | .char4 _ => true
  | .char5 _ => true
  | .char6 _ => true
  | .char7 _ => true
  | .char8 _ => true
  | .char9 _ => true
  | .charColon _ => true
  | .charPeriod _ => true
  | .charQuestion _ => true
  | .charSlash _ => true
  | .charHyphen _ => true
  | .charLparen _ => true
  | .charRparen _ => true
  | .charSpace _ => true
  | .symEnd => true
  | .symDit => true
  | .symDah => true
  | .symReserved => true
  | .byte _ _ _ _ => true
  | .codeword _ _ _ _ _ _ _ _ => true
  | .shift _ => true
  | .advance _ => true
  | .write _ _ _ => true
  | .read _ _ => true
  | .fold _ => true
  | .fwd _ => true
  | .put _ => true
  | .encChar => true
  | .encDone => true
  | .encode _ => true
  | .place _ k _ => placeOperandOk k
  | .rev _ => true
  | .terminates _ _ => true
  | .decSym => true
  | .decEos => true
  | .decode _ => true

end Sys2Proof
end

