-- ==== Sys2Proof/Decode.lean ====
section
/-! DEFINITION. The character table (spec/41_table_letters.md, 42_table_digits.md, 43_table_punct_space.md), the bit
formats of spec/30_encoding.md, the decoder and the encoder.

There are five formats with bits, each a key or a layout of its own space (R35, R64), so a word is decoded in a format:
an 8-bit character code (ENC's key, R58), a 16-bit code word (DEC's key, R56, R60), a 2-bit symbol (R51), a byte of
four symbols (R53) and a code word as a layout (R56). The 16 operations have no bits (R64). -/

namespace Sys2Proof

open Config

/-! ## The table: one list of rows, used in both directions (R90, R93) -/

/-- One row: a character code and its Dit/Dah sequence, the terminating End not included (R60, R90). -/
structure Row where
  code : Byte
  seq : List Sym
deriving DecidableEq, Repr

/-- R100: `A`, Morse `.-`. -/
def rowA : Row := ⟨0x41#8, [dit, dah]⟩
/-- R101: `B`, Morse `-...`. -/
def rowB : Row := ⟨0x42#8, [dah, dit, dit, dit]⟩
/-- R102: `C`, Morse `-.-.`. -/
def rowC : Row := ⟨0x43#8, [dah, dit, dah, dit]⟩
/-- R103: `D`, Morse `-..`. -/
def rowD : Row := ⟨0x44#8, [dah, dit, dit]⟩
/-- R104: `E`, Morse `.`. -/
def rowE : Row := ⟨0x45#8, [dit]⟩
/-- R105: `F`, Morse `..-.`. -/
def rowF : Row := ⟨0x46#8, [dit, dit, dah, dit]⟩
/-- R106: `G`, Morse `--.`. -/
def rowG : Row := ⟨0x47#8, [dah, dah, dit]⟩
/-- R107: `H`, Morse `....`. -/
def rowH : Row := ⟨0x48#8, [dit, dit, dit, dit]⟩
/-- R108: `I`, Morse `..`. -/
def rowI : Row := ⟨0x49#8, [dit, dit]⟩
/-- R109: `J`, Morse `.---`. -/
def rowJ : Row := ⟨0x4A#8, [dit, dah, dah, dah]⟩
/-- R110: `K`, Morse `-.-`. -/
def rowK : Row := ⟨0x4B#8, [dah, dit, dah]⟩
/-- R111: `L`, Morse `.-..`. -/
def rowL : Row := ⟨0x4C#8, [dit, dah, dit, dit]⟩
/-- R112: `M`, Morse `--`. -/
def rowM : Row := ⟨0x4D#8, [dah, dah]⟩
/-- R113: `N`, Morse `-.`. -/
def rowN : Row := ⟨0x4E#8, [dah, dit]⟩
/-- R114: `O`, Morse `---`. -/
def rowO : Row := ⟨0x4F#8, [dah, dah, dah]⟩
/-- R115: `P`, Morse `.--.`. -/
def rowP : Row := ⟨0x50#8, [dit, dah, dah, dit]⟩
/-- R116: `Q`, Morse `--.-`. -/
def rowQ : Row := ⟨0x51#8, [dah, dah, dit, dah]⟩
/-- R117: `R`, Morse `.-.`. -/
def rowR : Row := ⟨0x52#8, [dit, dah, dit]⟩
/-- R118: `S`, Morse `...`. -/
def rowS : Row := ⟨0x53#8, [dit, dit, dit]⟩
/-- R119: `T`, Morse `-`. -/
def rowT : Row := ⟨0x54#8, [dah]⟩
/-- R120: `U`, Morse `..-`. -/
def rowU : Row := ⟨0x55#8, [dit, dit, dah]⟩
/-- R121: `V`, Morse `...-`. -/
def rowV : Row := ⟨0x56#8, [dit, dit, dit, dah]⟩
/-- R122: `W`, Morse `.--`. -/
def rowW : Row := ⟨0x57#8, [dit, dah, dah]⟩
/-- R123: `X`, Morse `-..-`. -/
def rowX : Row := ⟨0x58#8, [dah, dit, dit, dah]⟩
/-- R124: `Y`, Morse `-.--`. -/
def rowY : Row := ⟨0x59#8, [dah, dit, dah, dah]⟩
/-- R125: `Z`, Morse `--..`. -/
def rowZ : Row := ⟨0x5A#8, [dah, dah, dit, dit]⟩
/-- R130: `0`, Morse `-----`. -/
def row0 : Row := ⟨0x30#8, [dah, dah, dah, dah, dah]⟩
/-- R131: `1`, Morse `.----`. -/
def row1 : Row := ⟨0x31#8, [dit, dah, dah, dah, dah]⟩
/-- R132: `2`, Morse `..---`. -/
def row2 : Row := ⟨0x32#8, [dit, dit, dah, dah, dah]⟩
/-- R133: `3`, Morse `...--`. -/
def row3 : Row := ⟨0x33#8, [dit, dit, dit, dah, dah]⟩
/-- R134: `4`, Morse `....-`. -/
def row4 : Row := ⟨0x34#8, [dit, dit, dit, dit, dah]⟩
/-- R135: `5`, Morse `.....`. -/
def row5 : Row := ⟨0x35#8, [dit, dit, dit, dit, dit]⟩
/-- R136: `6`, Morse `-....`. -/
def row6 : Row := ⟨0x36#8, [dah, dit, dit, dit, dit]⟩
/-- R137: `7`, Morse `--...`. -/
def row7 : Row := ⟨0x37#8, [dah, dah, dit, dit, dit]⟩
/-- R138: `8`, Morse `---..`. -/
def row8 : Row := ⟨0x38#8, [dah, dah, dah, dit, dit]⟩
/-- R139: `9`, Morse `----.`. -/
def row9 : Row := ⟨0x39#8, [dah, dah, dah, dah, dit]⟩
/-- R140: `:`, Morse `---...`. -/
def rowColon : Row := ⟨0x3A#8, [dah, dah, dah, dit, dit, dit]⟩
/-- R141: `.`, Morse `.-.-.-`. -/
def rowPeriod : Row := ⟨0x2E#8, [dit, dah, dit, dah, dit, dah]⟩
/-- R142: `?`, Morse `..--..`. -/
def rowQuestion : Row := ⟨0x3F#8, [dit, dit, dah, dah, dit, dit]⟩
/-- R143: `/`, Morse `-..-.`. -/
def rowSlash : Row := ⟨0x2F#8, [dah, dit, dit, dah, dit]⟩
/-- R144: `-`, Morse `-....-`. -/
def rowHyphen : Row := ⟨0x2D#8, [dah, dit, dit, dit, dit, dah]⟩
/-- R145: `(`, Morse `-.--.`. -/
def rowLparen : Row := ⟨0x28#8, [dah, dit, dah, dah, dit]⟩
/-- R146: `)`, Morse `-.--.-`. -/
def rowRparen : Row := ⟨0x29#8, [dah, dit, dah, dah, dit, dah]⟩
/-- R147: space, no symbol. -/
def rowSpace : Row := ⟨0x20#8, []⟩

/-- The letters A to Z (R100 to R125): each row with its instruction. -/
def letterRows : List (Row × (UnitId → Instr)) :=
  [(rowA, .charA), (rowB, .charB), (rowC, .charC), (rowD, .charD),
   (rowE, .charE), (rowF, .charF), (rowG, .charG), (rowH, .charH),
   (rowI, .charI), (rowJ, .charJ), (rowK, .charK), (rowL, .charL),
   (rowM, .charM), (rowN, .charN), (rowO, .charO), (rowP, .charP),
   (rowQ, .charQ), (rowR, .charR), (rowS, .charS), (rowT, .charT),
   (rowU, .charU), (rowV, .charV), (rowW, .charW), (rowX, .charX),
   (rowY, .charY), (rowZ, .charZ)]

/-- The digits (R130 to R139): each row with its instruction. -/
def digitRows : List (Row × (UnitId → Instr)) :=
  [(row0, .char0), (row1, .char1), (row2, .char2), (row3, .char3),
   (row4, .char4), (row5, .char5), (row6, .char6), (row7, .char7),
   (row8, .char8), (row9, .char9)]

/-- The punctuation marks and space (R140 to R147): each row with its instruction. -/
def markRows : List (Row × (UnitId → Instr)) :=
  [(rowColon, .charColon), (rowPeriod, .charPeriod), (rowQuestion, .charQuestion), (rowSlash, .charSlash),
   (rowHyphen, .charHyphen), (rowLparen, .charLparen), (rowRparen, .charRparen), (rowSpace, .charSpace)]

/-- The 44 rows with their instructions (R60, R90). -/
def instrRows : List (Row × (UnitId → Instr)) := letterRows ++ digitRows ++ markRows

/-- TABLE (R11): the 44 rows. The order has no meaning (R94). -/
def table : List Row := instrRows.map Prod.fst

/-! ## Bit fields -/

/-- Slot `i` of a byte: bits 2i+1 : 2i (R6, R38). -/
def slotOf (b : Byte) (i : Nat) : Sym := b.extractLsb' (2 * i) 2

/-- Position `j` of a code word: bits 15-2j : 14-2j (R6, R56). -/
def positionOf (w : CodeWord) (j : Nat) : Sym := w.extractLsb' (14 - 2 * j) 2

/-- The byte of four symbols in stream order (R53): `s0 | s1 << 2 | s2 << 4 | s3 << 6`. -/
def byteOf (s0 s1 s2 s3 : Sym) : Byte :=
  s0.setWidth 8 ||| (s1.setWidth 8 <<< 2) ||| (s2.setWidth 8 <<< 4) ||| (s3.setWidth 8 <<< 6)

/-- CW(s) from position `j` on (R57): the OR of `zext_16(s_j) << (14 - 2j)`. -/
def codeWordFrom (j : Nat) : List Sym → CodeWord
  | [] => 0#16
  | s :: rest => (s.setWidth 16 <<< (14 - 2 * j)) ||| codeWordFrom (j + 1) rest

/-- CW(s), the code word of a sequence of at most 8 symbols (R57). -/
def codeWordOf (q : List Sym) : CodeWord := codeWordFrom 0 q

/-- FOLD (R59, R151): a to z become A to Z, every other code is unchanged. -/
def foldCode (c : Byte) : Byte := if 0x61#8 ≤ c ∧ c ≤ 0x7A#8 then c - 0x20#8 else c

/-! ## Decoding -/

/-- The formats in which words of morse CORE are read. -/
inductive Format where
  /-- An 8-bit character code of a text (R58): ENC's key. -/
  | charCode8
  /-- A 16-bit code word (R56, R60): DEC's key. -/
  | codeWord16
  /-- A 2-bit symbol (R51). -/
  | symbol2
  /-- A byte as four symbols (R53). -/
  | byte4x2
  /-- A code word as eight positions (R56). -/
  | layout16
deriving DecidableEq, Repr

/-- The width of a format's words. -/
def Format.bits : Format → Nat
  | .charCode8 => 8
  | .codeWord16 => 16
  | .symbol2 => 2
  | .byte4x2 => 8
  | .layout16 => 16

/-- Why a word is no instruction. -/
inductive Reject where
  /-- The character code, folded, has no row: UnsupportedCharacter when ENC meets it (R61). -/
  | unsupportedCode (c : Byte)
  /-- The code word has no row: MalformedCode when DEC looks it up (R62). -/
  | unmatchedCodeWord (w : CodeWord)
  /-- The number does not fit in the format's width. -/
  | tooWide (f : Format) (w : Nat)
deriving DecidableEq, Repr

/-- What the decoder answers. -/
inductive Decoded where
  | instr (i : Instr)
  | reject (r : Reject)
deriving DecidableEq, Repr

/-- A character code of a text: folded, then its row, used by ENC (R151, R152, R156). -/
def decodeCharCode (c : Byte) : Decoded :=
  match instrRows.find? (fun e => e.1.code == foldCode c) with
  | some e => .instr (e.2 .enc)
  | none => .reject (.unsupportedCode c)

/-- A code word: its row, used by DEC; the match is exact on all 16 bits (R174). -/
def decodeCodeWord (w : CodeWord) : Decoded :=
  match instrRows.find? (fun e => codeWordOf e.1.seq == w) with
  | some e => .instr (e.2 .dec)
  | none => .reject (.unmatchedCodeWord w)

/-- A symbol (R51, R52); all four values are read. -/
def decodeSymbol (s : Sym) : Instr :=
  if s = symEnd then .symEnd else if s = dit then .symDit else if s = dah then .symDah else .symReserved

/-- A byte as its four slots (R53). -/
def decodeByte (b : Byte) : Instr := .byte (slotOf b 0) (slotOf b 1) (slotOf b 2) (slotOf b 3)

/-- A code word as its eight positions (R56). -/
def decodeLayout (w : CodeWord) : Instr :=
  .codeword (positionOf w 0) (positionOf w 1) (positionOf w 2) (positionOf w 3)
    (positionOf w 4) (positionOf w 5) (positionOf w 6) (positionOf w 7)

/-- The decoder: total, in a format; a number too wide for the format is rejected. -/
def decode (f : Format) (w : Nat) : Decoded :=
  if w < 2 ^ f.bits then
    match f with
    | .charCode8 => decodeCharCode (BitVec.ofNat 8 w)
    | .codeWord16 => decodeCodeWord (BitVec.ofNat 16 w)
    | .symbol2 => .instr (decodeSymbol (BitVec.ofNat 2 w))
    | .byte4x2 => .instr (decodeByte (BitVec.ofNat 8 w))
    | .layout16 => .instr (decodeLayout (BitVec.ofNat 16 w))
  else .reject (.tooWide f w)

/-- The instruction of an answer. -/
def Decoded.toOption : Decoded → Option Instr
  | .instr i => some i
  | .reject _ => none

/-! ## Encoding -/

/-- The word of a character row: the code for ENC, the code word for DEC (R57, R58). -/
def encodeRow (r : Row) : UnitId → Format × Nat
  | .enc => (.charCode8, r.code.toNat)
  | .dec => (.codeWord16, (codeWordOf r.seq).toNat)

/-- The encoder: the format and the word of an instruction; none for the operations, which have no opcode bits (R64). -/
def encode : Instr → Option (Format × Nat)
  | .charA u => some (encodeRow rowA u)
  | .charB u => some (encodeRow rowB u)
  | .charC u => some (encodeRow rowC u)
  | .charD u => some (encodeRow rowD u)
  | .charE u => some (encodeRow rowE u)
  | .charF u => some (encodeRow rowF u)
  | .charG u => some (encodeRow rowG u)
  | .charH u => some (encodeRow rowH u)
  | .charI u => some (encodeRow rowI u)
  | .charJ u => some (encodeRow rowJ u)
  | .charK u => some (encodeRow rowK u)
  | .charL u => some (encodeRow rowL u)
  | .charM u => some (encodeRow rowM u)
  | .charN u => some (encodeRow rowN u)
  | .charO u => some (encodeRow rowO u)
  | .charP u => some (encodeRow rowP u)
  | .charQ u => some (encodeRow rowQ u)
  | .charR u => some (encodeRow rowR u)
  | .charS u => some (encodeRow rowS u)
  | .charT u => some (encodeRow rowT u)
  | .charU u => some (encodeRow rowU u)
  | .charV u => some (encodeRow rowV u)
  | .charW u => some (encodeRow rowW u)
  | .charX u => some (encodeRow rowX u)
  | .charY u => some (encodeRow rowY u)
  | .charZ u => some (encodeRow rowZ u)
  | .char0 u => some (encodeRow row0 u)
  | .char1 u => some (encodeRow row1 u)
  | .char2 u => some (encodeRow row2 u)
  | .char3 u => some (encodeRow row3 u)
  | .char4 u => some (encodeRow row4 u)
  | .char5 u => some (encodeRow row5 u)
  | .char6 u => some (encodeRow row6 u)
  | .char7 u => some (encodeRow row7 u)
  | .char8 u => some (encodeRow row8 u)
  | .char9 u => some (encodeRow row9 u)
  | .charColon u => some (encodeRow rowColon u)
  | .charPeriod u => some (encodeRow rowPeriod u)
  | .charQuestion u => some (encodeRow rowQuestion u)
  | .charSlash u => some (encodeRow rowSlash u)
  | .charHyphen u => some (encodeRow rowHyphen u)
  | .charLparen u => some (encodeRow rowLparen u)
  | .charRparen u => some (encodeRow rowRparen u)
  | .charSpace u => some (encodeRow rowSpace u)
  | .symEnd => some (.symbol2, symEnd.toNat)
  | .symDit => some (.symbol2, dit.toNat)
  | .symDah => some (.symbol2, dah.toNat)
  | .symReserved => some (.symbol2, rsv.toNat)
  | .byte s0 s1 s2 s3 => some (.byte4x2, (byteOf s0 s1 s2 s3).toNat)
  | .codeword p0 p1 p2 p3 p4 p5 p6 p7 => some (.layout16, (codeWordOf [p0, p1, p2, p3, p4, p5, p6, p7]).toNat)
  | .shift _ => none
  | .advance _ => none
  | .write _ _ _ => none
  | .read _ _ => none
  | .fold _ => none
  | .fwd _ => none
  | .put _ => none
  | .encChar => none
  | .encDone => none
  | .encode _ => none
  | .place _ _ _ => none
  | .rev _ => none
  | .terminates _ _ => none
  | .decSym => none
  | .decEos => none
  | .decode _ => none

/-- The instruction the decoder reads from the bits of an opcode-table row (log 11). A 16-bit word is a code word (R60).
An 8-bit word is a byte of the packed buffer, and what DEC reads from it first is the symbol in its slot 0 (R38, R176). -/
def decodeTableWord (nbits w : Nat) : Option Instr :=
  if nbits = 16 then (decode .codeWord16 w).toOption
  else if 0 < nbits ∧ nbits ≤ 8 ∧ w < 2 ^ 8 then some (decodeSymbol (slotOf (BitVec.ofNat 8 w) 0))
  else none

end Sys2Proof
end

