-- ==== Sys2Proof/Machine/State.lean ====
section
/-! DEFINITION. The state of morse CORE (spec/10_state.md R10 to R29), the reasons a step can stop, and reset. -/

namespace Sys2Proof.Machine

/-- What UnsupportedCharacter records (R201): the position in the text, and the code as supplied, before folding. -/
structure UnsupportedCharacter where
  index : Nat
  code : Byte
deriving DecidableEq, Repr

/-- The three sub-causes of MalformedCode (R202). -/
inductive MalformedCause where
  /-- A character terminated and its code word has no row (R179). -/
  | noMatch
  /-- A ninth symbol, not End, arrived for one character (R180 c). -/
  | overflow
  /-- The input is exhausted with a non-zero code word (R183). -/
  | truncated
deriving DecidableEq, Repr

/-- What MalformedCode records (R202): the sub-cause, DEC.acc before the step, and the stream index (the spec's `at`). -/
structure MalformedCode where
  cause : MalformedCause
  word : CodeWord
  index : Nat
deriving DecidableEq, Repr

/-- The status of a unit whose fault records a `φ` (R17, R25): DONE and FAULT are final. -/
inductive Status (φ : Type) where
  | run
  | done
  | fault (info : φ)
deriving DecidableEq, Repr

/-- ENC (R12 to R17). -/
structure Enc where
  /-- ENC.text (R12), held constant through a pass. -/
  text : Buffer
  /-- ENC.idx (R13). -/
  idx : Nat
  /-- ENC.cur (R14). -/
  cur : Cursor
  /-- ENC.out (R16). -/
  out : Buffer
  /-- ENC.status (R17). -/
  status : Status UnsupportedCharacter
deriving DecidableEq, Repr

/-- DEC (R18 to R25). -/
structure Dec where
  /-- DEC.in (R18), held constant through a pass. -/
  inp : Buffer
  /-- DEC.ptr (R19). -/
  ptr : Nat
  /-- DEC.cur (R20). -/
  cur : Cursor
  /-- DEC.acc (R21). -/
  acc : CodeWord
  /-- DEC.k (R22), 4 bits, values 0 to 8. -/
  k : BitVec 4
  /-- DEC.out (R24). -/
  out : Buffer
  /-- DEC.status (R25). -/
  status : Status MalformedCode
deriving DecidableEq, Repr

/-- The result of a pass (R158, R184, R222): the output buffer, or the fault alone (R204). -/
inductive PassResult (φ : Type) where
  | ok (out : Buffer)
  | fault (info : φ)
deriving DecidableEq, Repr

/-- The value an operation returned to its caller (R7, R70, R158, R184; the model's own, log 2). -/
inductive Returned where
  /-- Nothing has been returned since reset. -/
  | nothing
  /-- SHIFT's result, 3 bits (R71). -/
  | shiftAmount (v : BitVec 3)
  /-- ADVANCE's result (R72). -/
  | cursor (v : Cursor)
  /-- WRITE's result (R74), or the value of a byte (R53). -/
  | byte (v : Byte)
  /-- READ's result (R75). -/
  | symbol (v : Sym)
  /-- FOLD's result (R151). -/
  | code (v : Byte)
  /-- FWD's result: a Dit/Dah sequence or none (R152). -/
  | sequence (v : Option (List Sym))
  /-- PLACE's result (R173), or the value of a code word (R56). -/
  | codeWord (v : CodeWord)
  /-- REV's result: a character code or none (R174). -/
  | lookUp (v : Option Byte)
  /-- TERMINATES' result (R175). -/
  | truth (v : Bool)
  /-- ENCODE's result (R158). -/
  | encoded (v : PassResult UnsupportedCharacter)
  /-- DECODE's result (R184). -/
  | decoded (v : PassResult MalformedCode)
deriving DecidableEq, Repr

/-- What the host can ask for: the start of a pass, with the whole input it supplies (R211, R222). There is no other request;
the reading of a pass's result changes no state. -/
inductive Call where
  /-- The transaction ENCODE (R222). -/
  | encode (text : Buffer)
  /-- The transaction DECODE (R222). -/
  | decode (bytes : Buffer)
deriving DecidableEq, Repr

/-- The machine: the two units, the build-time parameter SPACE_RULE, and the model's own `sel`, `calls` and `ret`. -/
structure State where
  /-- ENC (R12 to R17). -/
  enc : Enc
  /-- DEC (R18 to R25). -/
  dec : Dec
  /-- SPACE_RULE (R5, R185): fixed at build time (R28); no operation writes it (log 5). -/
  spaceRule : SpaceRule
  /-- Which unit moves next while both are in RUN (R213 allows any interleaving; the model's own, log 3). -/
  sel : UnitId
  /-- The passes the host asks for, oldest first, taken when no unit is in RUN (R211, R222; the model's own, log 4). -/
  calls : List Call
  /-- The value the last operation with a result returned (the model's own, log 2). -/
  ret : Returned
deriving DecidableEq, Repr

/-- Why the machine stops. A fault of the SPEC (R200) is no stop: it is a status, and the step that raises it answers a
next state. -/
inductive Fault where
  /-- Raised by a step operation, a character row or a symbol row in a state where its enabling condition (R156, R157,
  R172) does not hold; the spec gives it no effect there. Safe. -/
  | notEnabled
  /-- Raised by `step` when no unit is in RUN and the host asks for nothing: "no step is enabled" (R17, R25, R223). Safe. -/
  | noStepEnabled
  /-- Raised by PUT, and by what performs PUTs, when ENC.out is empty and ENC.cur is not 0: MemRead is defined below the
  length only (R7). No run reaches it (R43, R154 b). Safe. -/
  | indexOutOfRange
deriving DecidableEq, Repr

/-- Why an instruction has no meaning. -/
inductive Refusal where
  /-- Reserved for an arm of `exec` without a meaning; no arm uses it. Safe. -/
  | notModelled (mnemonic : String)
  /-- Raised by PLACE with `k` above 7: the operand is "`k` (0..7)" (R173). Safe. -/
  | operandOutOfRange
deriving DecidableEq, Repr

/-- What a meaning answers. -/
abbrev Answer := Host.Outcome State Fault Refusal

/-- ENC at the start of a pass over `text` (R29). -/
def Enc.start (text : Buffer) : Enc :=
  { text := text, idx := 0, cur := 0#2, out := [], status := .run }

/-- DEC at the start of a pass over `bytes` (R29, R171). -/
def Dec.start (bytes : Buffer) : Dec :=
  { inp := bytes, ptr := 0, cur := 0#2, acc := 0#16, k := 0#4, out := [], status := .run }

/-- Reset: both units at the start of a pass with an empty input (R220, R29). `spaceRule` is the value this hardware takes
(R5); `sel`, `calls`, `ret` are the model's own (logs 3, 4, 2). -/
def State.reset : State :=
  { enc := Enc.start [], dec := Dec.start [], spaceRule := Config.spaceRule, sel := .enc, calls := [], ret := .nothing }

end Sys2Proof.Machine
end

