-- ==== Sys2Proof/Machine/Ops.lean ====
section
/-! DEFINITION. The named operations over buffers and registers: memory access (spec/00_scope.md R7), the cursor and
packing primitives (spec/40_cursor_primitives.md), raising a fault (spec/60_exceptions.md R204, R206),
PUT (spec/44_encoder.md R154) and PLACE (spec/45_decoder.md R173). -/

namespace Sys2Proof.Machine

open Config

/-! ## Buffers (R7, R43) -/

/-- MemRead(buf, i) (R7): defined only below the length. -/
def memRead (buf : Buffer) (i : Nat) : Option Byte := buf[i]?

/-- MemWrite(buf, i, v) (R7): defined only below the length. -/
def memWrite (buf : Buffer) (i : Nat) (v : Byte) : Option Buffer :=
  if i < buf.length then some (buf.set i v) else none

/-- MemAppend(buf, v) (R7). -/
def memAppend (buf : Buffer) (v : Byte) : Buffer := buf ++ [v]

/-! ## The cursor and packing primitives (R70 to R75) -/

/-- SHIFT(cursor) = 2 * cursor, 3 bits (R71). -/
def shiftOf (c : Cursor) : BitVec 3 := 2#3 * c.setWidth 3

/-- ADVANCE(cursor) = (cursor + 1) mod 4 (R72). -/
def nextCursor (c : Cursor) : Cursor := c + 1#2

/-- WRITE(symbol, byte, cursor) = byte | (zext_8(symbol) << SHIFT(cursor)) (R74). -/
def writeSlot (s : Sym) (b : Byte) (c : Cursor) : Byte := b ||| (s.setWidth 8 <<< (shiftOf c).toNat)

/-- READ(byte, cursor) = (byte >> SHIFT(cursor)) & 0b11 (R75). -/
def readSlot (b : Byte) (c : Cursor) : Sym := ((b >>> (shiftOf c).toNat) &&& 0b11#8).setWidth 2

/-- PLACE(acc, k, s) = acc | (zext_16(s) << (14 - 2 * k)), for `k` in 0..7 (R173). -/
def placeSym (acc : CodeWord) (k : BitVec 4) (s : Sym) : CodeWord :=
  acc ||| (s.setWidth 16 <<< (14 - 2 * k.toNat))

/-! ## Raising a fault (R204)

There is no return from a fault (R206): a new pass begins with `Enc.start` or `Dec.start`, which keep nothing. -/

/-- `raise UnsupportedCharacter(index, code)` (R204): the status changes and every other field keeps its value. -/
def Enc.raise (e : Enc) (info : UnsupportedCharacter) : Enc := { e with status := .fault info }

/-- `raise MalformedCode(cause, word, at)` (R204): the status changes and every other field keeps its value. -/
def Dec.raise (d : Dec) (info : MalformedCode) : Dec := { d with status := .fault info }

/-! ## ENC's symbol write (R154) -/

/-- PUT(s) (R154): append a zero byte when the cursor is 0, OR the symbol into the cursor's slot of the last byte, advance
the cursor. None when there is no byte to index, which no run reaches (R154 b). -/
def Enc.put (e : Enc) (s : Sym) : Option Enc :=
  let out := if e.cur = 0#2 then memAppend e.out 0x00#8 else e.out
  match memRead out (out.length - 1) with
  | none => none
  | some b =>
    match memWrite out (out.length - 1) (writeSlot s b e.cur) with
    | none => none
    | some out' => some { e with out := out', cur := nextCursor e.cur }

/-- PUT of each symbol of a list, in order (R155). -/
def Enc.puts (e : Enc) : List Sym → Option Enc
  | [] => some e
  | s :: rest =>
    match e.put s with
    | none => none
    | some e' => e'.puts rest

/-- The canonical form of a packed buffer being built (R15): a cursor other than 0 names a slot of a last byte, and every
slot of that byte from the cursor on holds `00`. -/
def Memory.wf (out : Buffer) (cur : Cursor) : Bool :=
  if cur = 0#2 then true
  else
    match out.getLast? with
    | none => false
    | some b => b >>> (shiftOf cur).toNat == 0#8

/-! ## DEC's read pointers (R176) -/

/-- The stream index of the symbol that (ptr, cur) names (R27): 4 * ptr + cur. -/
def Dec.symbolIndex (d : Dec) : Nat := 4 * d.ptr + d.cur.toNat

/-- After a symbol is read: the cursor advances, and the pointer when the cursor wraps to 0 (R176). -/
def Dec.advance (d : Dec) : Dec :=
  { d with
    cur := nextCursor d.cur
    ptr := if nextCursor d.cur = 0#2 then d.ptr + 1 else d.ptr }

end Sys2Proof.Machine
end

