-- ==== Sys2Proof/Machine/Operands.lean ====
section
/-! DEFINITION. The table look-ups, the operand forms of the character rows (spec/44_encoder.md R152, R155,
spec/45_decoder.md R174). -/

namespace Sys2Proof.Machine

open Config

/-- FWD(c) (R152): the Dit/Dah sequence of the row whose code is `c`. -/
def fwd (c : Byte) : Option (List Sym) := (table.find? (fun r => r.code == c)).map Row.seq

/-- REV(w) (R174): the code of the row whose code word is `w`, all 16 bits. -/
def rev (w : CodeWord) : Option Byte := (table.find? (fun r => codeWordOf r.seq == w)).map Row.code

/-- The symbols ENC puts for a Dit/Dah sequence (R155): the sequence, then End. -/
def streamForm (q : List Sym) : List Sym := q ++ [symEnd]

/-- The codes ENC accepts (R153): FWD(FOLD(c)) is not none. -/
def supported (c : Byte) : Bool := (fwd (foldCode c)).isSome

end Sys2Proof.Machine
end

