-- ==== Sys2Proof/Machine/Flags.lean ====
section
/-! DEFINITION. The conditions the units test and the outcome bits they store (spec/10_state.md R28). The block has no flag
register: each condition is computed when needed. -/

namespace Sys2Proof.Machine

open Config

/-- TERMINATES(s, acc) (R175 for ABSORB, R185 for IMMEDIATE). -/
def terminatesUnder (r : SpaceRule) (s : Sym) (acc : CodeWord) : Bool :=
  match r with
  | .absorb => s == symEnd && acc != 0#16
  | .immediate => s == symEnd

/-- ENC_CHAR is enabled (R156). -/
def Enc.charEnabled (e : Enc) : Bool := e.status == .run && decide (e.idx < e.text.length)

/-- ENC_DONE is enabled (R157). -/
def Enc.doneEnabled (e : Enc) : Bool := e.status == .run && decide (e.idx = e.text.length)

/-- DEC_SYM is enabled (R172, R176). -/
def Dec.symEnabled (d : Dec) : Bool := d.status == .run && decide (d.ptr < d.inp.length)

/-- DEC_EOS is enabled (R172, R181 to R183). -/
def Dec.eosEnabled (d : Dec) : Bool := d.status == .run && decide (d.ptr = d.inp.length)

/-- The fault number of ENC's status (R203): 0 no fault, 1 UnsupportedCharacter. -/
def Enc.faultNumber (e : Enc) : Nat :=
  match e.status with
  | .fault _ => 1
  | .run => 0
  | .done => 0

/-- The fault number of DEC's status (R203): 0 no fault, 2 MalformedCode. -/
def Dec.faultNumber (d : Dec) : Nat :=
  match d.status with
  | .fault _ => 2
  | .run => 0
  | .done => 0

/-- The number of a sub-cause of MalformedCode (R203). -/
def MalformedCause.number : MalformedCause → Nat
  | .noMatch => 0
  | .overflow => 1
  | .truncated => 2

end Sys2Proof.Machine
end

