-- ==== Sys2Proof/Machine/Units.lean ====
section
/-! DEFINITION. The steps and passes of the two units, shared by the meanings (spec/44_encoder.md R155 to R158,
spec/45_decoder.md R176 to R185). -/

namespace Sys2Proof.Machine

open Config

/-! ## ENC -/

/-- The work of ENC_CHAR for a character whose sequence is `q` (R155, R156): its PUTs, End, and the index step. -/
def Enc.putChar (e : Enc) (q : List Sym) : Option Enc :=
  match e.puts (streamForm q) with
  | none => none
  | some e' => some { e' with idx := e'.idx + 1 }

/-- ENC_CHAR on the code `raw` (R156): the look-up, then the work or the fault. -/
def Enc.charStep (e : Enc) (raw : Byte) : Option Enc :=
  match fwd (foldCode raw) with
  | none => some (e.raise { index := e.idx, code := raw })
  | some q => e.putChar q

/-- ENC_DONE (R157). -/
def Enc.finish (e : Enc) : Enc := { e with status := .done }

/-- One turn of ENCODE's loop in RUN (R158): ENC_CHAR below the length, else ENC_DONE. -/
def Enc.turn (e : Enc) : Option Enc :=
  match memRead e.text e.idx with
  | some raw => e.charStep raw
  | none => some e.finish

/-- ENCODE's loop (R158), at most `n` turns. -/
def Enc.loop : Nat → Enc → Option Enc
  | 0, e => some e
  | n + 1, e =>
    if e.status = .run then
      match e.turn with
      | none => none
      | some e' => e'.loop n
    else some e

/-- The whole pass over `text` (R158): at most L + 1 steps. -/
def Enc.pass (text : Buffer) : Option Enc := (Enc.start text).loop (text.length + 1)

/-- What a pass of ENC returns (R158, R204). -/
def Enc.result (e : Enc) : PassResult UnsupportedCharacter :=
  match e.status with
  | .fault info => .fault info
  | .run => .ok e.out
  | .done => .ok e.out

/-! ## DEC -/

/-- EMIT (R178): append the code, clear the code word and the count. -/
def Dec.emit (d : Dec) (ch : Byte) : Dec := { d with out := memAppend d.out ch, acc := 0x0000#16, k := 0#4 }

/-- What MalformedCode records in this state (R202). -/
def Dec.malformed (d : Dec) (cause : MalformedCause) (index : Nat) : MalformedCode :=
  { cause := cause, word := d.acc, index := index }

/-- DEC_SYM after its fetch part has read `s` (R176, R177): the pointer and cursor move, and one of EMIT (R178),
ACCUMULATE (R180 a), SATURATE (R180 b) happens; or NO_MATCH (R179) or OVERFLOW (R180 c) is raised and nothing moves. -/
def Dec.onSymbol (r : SpaceRule) (d : Dec) (s : Sym) : Dec :=
  if terminatesUnder r s d.acc then
    match rev d.acc with
    | some ch => d.advance.emit ch
    | none => d.raise (d.malformed .noMatch d.symbolIndex)
  else if d.k.toNat < cwSlots then
    { d.advance with acc := placeSym d.acc d.k s, k := d.k + 1#4 }
  else if s = symEnd then d.advance
  else d.raise (d.malformed .overflow d.symbolIndex)

/-- DEC_EOS (R181, R182, R183), tested in the rules' order. -/
def Dec.atEnd (d : Dec) : Dec :=
  if d.k = 0#4 then { d with status := .done }
  else if d.acc = 0x0000#16 then { d with out := memAppend d.out spaceCode, status := .done }
  else d.raise (d.malformed .truncated (4 * d.inp.length))

/-- One turn of DECODE's loop in RUN (R184): DEC_SYM below the length, else DEC_EOS. -/
def Dec.turn (r : SpaceRule) (d : Dec) : Dec :=
  match memRead d.inp d.ptr with
  | some b => d.onSymbol r (readSlot b d.cur)
  | none => d.atEnd

/-- DECODE's loop (R184), at most `n` turns. -/
def Dec.loop (r : SpaceRule) : Nat → Dec → Dec
  | 0, d => d
  | n + 1, d => if d.status = .run then (d.turn r).loop r n else d

/-- The whole pass over `bytes` (R184): at most 4N symbol steps and one end-of-stream step. -/
def Dec.pass (r : SpaceRule) (bytes : Buffer) : Dec := (Dec.start bytes).loop r (4 * bytes.length + 1)

/-- What a pass of DEC returns (R184, R204). -/
def Dec.result (d : Dec) : PassResult MalformedCode :=
  match d.status with
  | .fault info => .fault info
  | .run => .ok d.out
  | .done => .ok d.out

/-! ## The units in the machine -/

/-- ENC becomes `e`, or the machine stops where a buffer was indexed outside its length (R7). -/
def State.setEnc (s : State) : Option Enc → Answer
  | some e => .next { s with enc := e }
  | none => .fault .indexOutOfRange

/-- DEC becomes `d`. -/
def State.setDec (s : State) (d : Dec) : State := { s with dec := d }

/-- An operation returned `v` (R7, R70). -/
def State.returning (s : State) (v : Returned) : State := { s with ret := v }

/-- A character row run by a unit (log 8). ENC: the row's PUTs, End, and the index step, where ENC_CHAR is enabled (R155,
R156). DEC: the character's terminating End is read and its code emitted, where DEC_SYM is enabled (R176, R178). -/
def runRow (r : Row) (u : UnitId) (s : State) : Answer :=
  match u with
  | .enc => if s.enc.charEnabled then s.setEnc (s.enc.putChar r.seq) else .fault .notEnabled
  | .dec => if s.dec.symEnabled then .next (s.setDec (s.dec.advance.emit r.code)) else .fault .notEnabled

/-- A symbol run by DEC (log 9): DEC_SYM's step with the value `v` read (R176 to R180), where DEC_SYM is enabled. -/
def runSymbol (v : Sym) (s : State) : Answer :=
  if s.dec.symEnabled then .next (s.setDec (s.dec.onSymbol s.spaceRule v)) else .fault .notEnabled

end Sys2Proof.Machine
end

