-- ==== Sys2Proof/Machine/Decoder.lean ====
section
/-! DEFINITION. The meanings of the operations of DEC (spec/45_decoder.md R173 to R185). -/

namespace Sys2Proof.Machine

/-- PLACE (R173), for `k` in 0..7. -/
def execPlace (acc : CodeWord) (k : BitVec 4) (v : Sym) (s : State) : Answer :=
  if placeOperandOk k then .next (s.returning (.codeWord (placeSym acc k v))) else .refused .operandOutOfRange

/-- REV (R174): no fault of its own, `none` is a result. -/
def execRev (w : CodeWord) (s : State) : Answer := .next (s.returning (.lookUp (rev w)))

/-- TERMINATES (R175, R185), under the machine's SPACE_RULE. -/
def execTerminates (v : Sym) (acc : CodeWord) (s : State) : Answer :=
  .next (s.returning (.truth (terminatesUnder s.spaceRule v acc)))

/-- DEC_SYM (R176 to R180): enabled in RUN below the end of the input; the symbol is read and executed. -/
def execDecSym (s : State) : Answer :=
  if s.dec.symEnabled then
    match memRead s.dec.inp s.dec.ptr with
    | some b => .next (s.setDec (s.dec.onSymbol s.spaceRule (readSlot b s.dec.cur)))
    | none => .fault .indexOutOfRange
  else .fault .notEnabled

/-- DEC_EOS (R181 to R183): enabled in RUN at the end of the input. -/
def execDecEos (s : State) : Answer :=
  if s.dec.eosEnabled then .next (s.setDec s.dec.atEnd) else .fault .notEnabled

/-- DECODE (R184): DEC starts anew on `bytes`, runs its pass, and the result is returned (log 15). -/
def execDecode (bytes : Buffer) (s : State) : Answer :=
  .next ((s.setDec (Dec.pass s.spaceRule bytes)).returning (.decoded (Dec.pass s.spaceRule bytes).result))

end Sys2Proof.Machine
end

