-- ==== Sys2Proof/Machine/Digits.lean ====
section
/-! DEFINITION. The meanings of the character rows of the digits 0 to 9 (spec/42_table_digits.md). Run by ENC, a row's symbols and End are put
(R155, R156); run by DEC, its code is emitted at its terminating End (R178). -/

namespace Sys2Proof.Machine

/-- CHAR_0 (R130). -/
def execChar0 (u : UnitId) (s : State) : Answer := runRow row0 u s

/-- CHAR_1 (R131). -/
def execChar1 (u : UnitId) (s : State) : Answer := runRow row1 u s

/-- CHAR_2 (R132). -/
def execChar2 (u : UnitId) (s : State) : Answer := runRow row2 u s

/-- CHAR_3 (R133). -/
def execChar3 (u : UnitId) (s : State) : Answer := runRow row3 u s

/-- CHAR_4 (R134). -/
def execChar4 (u : UnitId) (s : State) : Answer := runRow row4 u s

/-- CHAR_5 (R135). -/
def execChar5 (u : UnitId) (s : State) : Answer := runRow row5 u s

/-- CHAR_6 (R136). -/
def execChar6 (u : UnitId) (s : State) : Answer := runRow row6 u s

/-- CHAR_7 (R137). -/
def execChar7 (u : UnitId) (s : State) : Answer := runRow row7 u s

/-- CHAR_8 (R138). -/
def execChar8 (u : UnitId) (s : State) : Answer := runRow row8 u s

/-- CHAR_9 (R139). -/
def execChar9 (u : UnitId) (s : State) : Answer := runRow row9 u s

end Sys2Proof.Machine
end

