-- ==== Sys2Proof/Machine/Encoder.lean ====
section
/-! DEFINITION. The meanings of the operations of ENC (spec/44_encoder.md R151 to R158). -/

namespace Sys2Proof.Machine

/-- FOLD (R151). -/
def execFold (c : Byte) (s : State) : Answer := .next (s.returning (.code (foldCode c)))

/-- FWD (R152): no fault of its own, `none` is a result. -/
def execFwd (c : Byte) (s : State) : Answer := .next (s.returning (.sequence (fwd c)))

/-- PUT (R154), in every status (log 17). -/
def execPut (v : Sym) (s : State) : Answer := s.setEnc (s.enc.put v)

/-- ENC_CHAR (R156): enabled in RUN below the end of the text; the character's PUTs and the index step, or
UnsupportedCharacter (R201). -/
def execEncChar (s : State) : Answer :=
  if s.enc.charEnabled then
    match memRead s.enc.text s.enc.idx with
    | some raw => s.setEnc (s.enc.charStep raw)
    | none => .fault .indexOutOfRange
  else .fault .notEnabled

/-- ENC_DONE (R157): enabled in RUN at the end of the text; the status becomes DONE. -/
def execEncDone (s : State) : Answer :=
  if s.enc.doneEnabled then s.setEnc (some s.enc.finish) else .fault .notEnabled

/-- ENCODE (R158): ENC starts anew on `text`, runs its pass, and the result is returned (log 15). -/
def execEncode (text : Buffer) (s : State) : Answer :=
  match Enc.pass text with
  | some e => .next ({ s with enc := e }.returning (.encoded e.result))
  | none => .fault .indexOutOfRange

end Sys2Proof.Machine
end

