-- ==== Sys2Proof/Machine/Layouts.lean ====
section
/-! DEFINITION. The meanings of the two layout rows: the value that the layout gives its fields (spec/30_encoding.md R53,
R56, R57). Log 10. -/

namespace Sys2Proof.Machine

/-- BYTE (R53): the value of a byte holding the four symbols in stream order is returned. -/
def execByte (s0 s1 s2 s3 : Sym) (s : State) : Answer := .next (s.returning (.byte (byteOf s0 s1 s2 s3)))

/-- CODEWORD (R56, R57): the code word of the eight positions is returned. -/
def execCodeword (p0 p1 p2 p3 p4 p5 p6 p7 : Sym) (s : State) : Answer :=
  .next (s.returning (.codeWord (codeWordOf [p0, p1, p2, p3, p4, p5, p6, p7])))

end Sys2Proof.Machine
end

