-- ==== Sys2Proof/Machine/Letters.lean ====
section
/-! DEFINITION. The meanings of the character rows of the letters A to Z (spec/41_table_letters.md). Run by ENC, a row's symbols and End are put
(R155, R156); run by DEC, its code is emitted at its terminating End (R178). -/

namespace Sys2Proof.Machine

/-- CHAR_A (R100). -/
def execCharA (u : UnitId) (s : State) : Answer := runRow rowA u s

/-- CHAR_B (R101). -/
def execCharB (u : UnitId) (s : State) : Answer := runRow rowB u s

/-- CHAR_C (R102). -/
def execCharC (u : UnitId) (s : State) : Answer := runRow rowC u s

/-- CHAR_D (R103). -/
def execCharD (u : UnitId) (s : State) : Answer := runRow rowD u s

/-- CHAR_E (R104). -/
def execCharE (u : UnitId) (s : State) : Answer := runRow rowE u s

/-- CHAR_F (R105). -/
def execCharF (u : UnitId) (s : State) : Answer := runRow rowF u s

/-- CHAR_G (R106). -/
def execCharG (u : UnitId) (s : State) : Answer := runRow rowG u s

/-- CHAR_H (R107). -/
def execCharH (u : UnitId) (s : State) : Answer := runRow rowH u s

/-- CHAR_I (R108). -/
def execCharI (u : UnitId) (s : State) : Answer := runRow rowI u s

/-- CHAR_J (R109). -/
def execCharJ (u : UnitId) (s : State) : Answer := runRow rowJ u s

/-- CHAR_K (R110). -/
def execCharK (u : UnitId) (s : State) : Answer := runRow rowK u s

/-- CHAR_L (R111). -/
def execCharL (u : UnitId) (s : State) : Answer := runRow rowL u s

/-- CHAR_M (R112). -/
def execCharM (u : UnitId) (s : State) : Answer := runRow rowM u s

/-- CHAR_N (R113). -/
def execCharN (u : UnitId) (s : State) : Answer := runRow rowN u s

/-- CHAR_O (R114). -/
def execCharO (u : UnitId) (s : State) : Answer := runRow rowO u s

/-- CHAR_P (R115). -/
def execCharP (u : UnitId) (s : State) : Answer := runRow rowP u s

/-- CHAR_Q (R116). -/
def execCharQ (u : UnitId) (s : State) : Answer := runRow rowQ u s

/-- CHAR_R (R117). -/
def execCharR (u : UnitId) (s : State) : Answer := runRow rowR u s

/-- CHAR_S (R118). -/
def execCharS (u : UnitId) (s : State) : Answer := runRow rowS u s

/-- CHAR_T (R119). -/
def execCharT (u : UnitId) (s : State) : Answer := runRow rowT u s

/-- CHAR_U (R120). -/
def execCharU (u : UnitId) (s : State) : Answer := runRow rowU u s

/-- CHAR_V (R121). -/
def execCharV (u : UnitId) (s : State) : Answer := runRow rowV u s

/-- CHAR_W (R122). -/
def execCharW (u : UnitId) (s : State) : Answer := runRow rowW u s

/-- CHAR_X (R123). -/
def execCharX (u : UnitId) (s : State) : Answer := runRow rowX u s

/-- CHAR_Y (R124). -/
def execCharY (u : UnitId) (s : State) : Answer := runRow rowY u s

/-- CHAR_Z (R125). -/
def execCharZ (u : UnitId) (s : State) : Answer := runRow rowZ u s

end Sys2Proof.Machine
end

