-- ==== Sys2Proof/Machine/Marks.lean ====
section
/-! DEFINITION. The meanings of the character rows of the punctuation marks and space (spec/43_table_punct_space.md). Run by ENC, a row's symbols and End are put
(R155, R156); run by DEC, its code is emitted at its terminating End (R178). -/

namespace Sys2Proof.Machine

/-- CHAR_COLON (R140). -/
def execCharColon (u : UnitId) (s : State) : Answer := runRow rowColon u s

/-- CHAR_PERIOD (R141). -/
def execCharPeriod (u : UnitId) (s : State) : Answer := runRow rowPeriod u s

/-- CHAR_QUESTION (R142). -/
def execCharQuestion (u : UnitId) (s : State) : Answer := runRow rowQuestion u s

/-- CHAR_SLASH (R143). -/
def execCharSlash (u : UnitId) (s : State) : Answer := runRow rowSlash u s

/-- CHAR_HYPHEN (R144). -/
def execCharHyphen (u : UnitId) (s : State) : Answer := runRow rowHyphen u s

/-- CHAR_LPAREN (R145). -/
def execCharLparen (u : UnitId) (s : State) : Answer := runRow rowLparen u s

/-- CHAR_RPAREN (R146). -/
def execCharRparen (u : UnitId) (s : State) : Answer := runRow rowRparen u s

/-- CHAR_SPACE (R147). -/
def execCharSpace (u : UnitId) (s : State) : Answer := runRow rowSpace u s

end Sys2Proof.Machine
end

