-- ==== Sys2Proof/Machine/Primitives.lean ====
section
/-! DEFINITION. The meanings of the cursor and packing primitives (spec/40_cursor_primitives.md R70 to R75). They "read
their operands and return a value; they touch no state of their own". -/

namespace Sys2Proof.Machine

/-- SHIFT (R71). -/
def execShift (c : Cursor) (s : State) : Answer := .next (s.returning (.shiftAmount (shiftOf c)))

/-- ADVANCE (R72). -/
def execAdvance (c : Cursor) (s : State) : Answer := .next (s.returning (.cursor (nextCursor c)))

/-- WRITE (R74): it does not check the slot (R226). -/
def execWrite (v : Sym) (b : Byte) (c : Cursor) (s : State) : Answer :=
  .next (s.returning (.byte (writeSlot v b c)))

/-- READ (R75). -/
def execRead (b : Byte) (c : Cursor) (s : State) : Answer := .next (s.returning (.symbol (readSlot b c)))

end Sys2Proof.Machine
end

