-- ==== Sys2Proof/Machine/Symbols.lean ====
section
/-! DEFINITION. The meanings of the four symbol values (spec/30_encoding.md R51, R52): what DEC does in the step that reads
the value (spec/45_decoder.md R176 to R180, R189). -/

namespace Sys2Proof.Machine

/-- SYM_END (R51): DEC reads 0, which terminates a character, is absorbed, or is dropped (R175, R178 to R180). -/
def execSymEnd (s : State) : Answer := runSymbol Config.symEnd s

/-- SYM_DIT (R51): DEC reads 1, which is accumulated or overflows (R180). -/
def execSymDit (s : State) : Answer := runSymbol Config.dit s

/-- SYM_DAH (R51): DEC reads 2, which is accumulated or overflows (R180). -/
def execSymDah (s : State) : Answer := runSymbol Config.dah s

/-- SYM_RESERVED (R52): DEC reads 3, a non-End symbol, accumulated or overflowing like any other (R189). -/
def execSymReserved (s : State) : Answer := runSymbol Config.rsv s

end Sys2Proof.Machine
end

