-- ==== Sys2Proof/Machine/Dispatch.lean ====
section
/-! DEFINITION. The dispatch: one arm per row of spec/opcode_table.json, each one call of its meaning. -/

namespace Sys2Proof.Machine

def exec (i : Instr) (s : State) : Host.Outcome State Fault Refusal :=
  match i with
  | .charA u => Sys2Proof.Machine.execCharA u s
  | .charB u => Sys2Proof.Machine.execCharB u s
  | .charC u => Sys2Proof.Machine.execCharC u s
  | .charD u => Sys2Proof.Machine.execCharD u s
  | .charE u => Sys2Proof.Machine.execCharE u s
  | .charF u => Sys2Proof.Machine.execCharF u s
  | .charG u => Sys2Proof.Machine.execCharG u s
  | .charH u => Sys2Proof.Machine.execCharH u s
  | .charI u => Sys2Proof.Machine.execCharI u s
  | .charJ u => Sys2Proof.Machine.execCharJ u s
  | .charK u => Sys2Proof.Machine.execCharK u s
  | .charL u => Sys2Proof.Machine.execCharL u s
  | .charM u => Sys2Proof.Machine.execCharM u s
  | .charN u => Sys2Proof.Machine.execCharN u s
  | .charO u => Sys2Proof.Machine.execCharO u s
  | .charP u => Sys2Proof.Machine.execCharP u s
  | .charQ u => Sys2Proof.Machine.execCharQ u s
  | .charR u => Sys2Proof.Machine.execCharR u s
  | .charS u => Sys2Proof.Machine.execCharS u s
  | .charT u => Sys2Proof.Machine.execCharT u s
  | .charU u => Sys2Proof.Machine.execCharU u s
  | .charV u => Sys2Proof.Machine.execCharV u s
  | .charW u => Sys2Proof.Machine.execCharW u s
  | .charX u => Sys2Proof.Machine.execCharX u s
  | .charY u => Sys2Proof.Machine.execCharY u s
  | .charZ u => Sys2Proof.Machine.execCharZ u s
  | .char0 u => Sys2Proof.Machine.execChar0 u s
  | .char1 u => Sys2Proof.Machine.execChar1 u s
  | .char2 u => Sys2Proof.Machine.execChar2 u s
  | .char3 u => Sys2Proof.Machine.execChar3 u s
  | .char4 u => Sys2Proof.Machine.execChar4 u s
  | .char5 u => Sys2Proof.Machine.execChar5 u s
  | .char6 u => Sys2Proof.Machine.execChar6 u s
  | .char7 u => Sys2Proof.Machine.execChar7 u s
  | .char8 u => Sys2Proof.Machine.execChar8 u s
  | .char9 u => Sys2Proof.Machine.execChar9 u s
  | .charColon u => Sys2Proof.Machine.execCharColon u s
  | .charPeriod u => Sys2Proof.Machine.execCharPeriod u s
  | .charQuestion u => Sys2Proof.Machine.execCharQuestion u s
  | .charSlash u => Sys2Proof.Machine.execCharSlash u s
  | .charHyphen u => Sys2Proof.Machine.execCharHyphen u s
  | .charLparen u => Sys2Proof.Machine.execCharLparen u s
  | .charRparen u => Sys2Proof.Machine.execCharRparen u s
  | .charSpace u => Sys2Proof.Machine.execCharSpace u s
  | .symEnd => Sys2Proof.Machine.execSymEnd s
  | .symDit => Sys2Proof.Machine.execSymDit s
  | .symDah => Sys2Proof.Machine.execSymDah s
  | .symReserved => Sys2Proof.Machine.execSymReserved s
  | .byte s0 s1 s2 s3 => Sys2Proof.Machine.execByte s0 s1 s2 s3 s
  | .codeword p0 p1 p2 p3 p4 p5 p6 p7 => Sys2Proof.Machine.execCodeword p0 p1 p2 p3 p4 p5 p6 p7 s
  | .shift c => Sys2Proof.Machine.execShift c s
  | .advance c => Sys2Proof.Machine.execAdvance c s
  | .write v b c => Sys2Proof.Machine.execWrite v b c s
  | .read b c => Sys2Proof.Machine.execRead b c s
  | .fold c => Sys2Proof.Machine.execFold c s
  | .fwd c => Sys2Proof.Machine.execFwd c s
  | .put v => Sys2Proof.Machine.execPut v s
  | .encChar => Sys2Proof.Machine.execEncChar s
  | .encDone => Sys2Proof.Machine.execEncDone s
  | .encode text => Sys2Proof.Machine.execEncode text s
  | .place acc k v => Sys2Proof.Machine.execPlace acc k v s
  | .rev w => Sys2Proof.Machine.execRev w s
  | .terminates v acc => Sys2Proof.Machine.execTerminates v acc s
  | .decSym => Sys2Proof.Machine.execDecSym s
  | .decEos => Sys2Proof.Machine.execDecEos s
  | .decode bytes => Sys2Proof.Machine.execDecode bytes s

end Sys2Proof.Machine
end

