-- ==== Sys2Proof/Machine/Fetch.lean ====
section
/-! DEFINITION. What the next step runs: which unit moves, and the instruction its input holds there. The text is ENC's
instruction stream and the packed buffer is DEC's (spec/20_memory.md R47, spec/30_encoding.md R65,
spec/96_test_programs.md section 3). -/

namespace Sys2Proof.Machine

/-- ENC's next instruction (R156 to R158): the row of the character at `idx`; ENC_CHAR where the code has no row (its step
raises UnsupportedCharacter); ENC_DONE past the text. -/
def fetchEnc (e : Enc) : Instr :=
  match memRead e.text e.idx with
  | none => .encDone
  | some raw =>
    match decodeCharCode raw with
    | .instr i => i
    | .reject _ => .encChar

/-- DEC's next instruction (R172, R176, R177): the symbol in the slot that (ptr, cur) names; the row of the code word where
that symbol is a terminating End and the word has one (R174, R178); DEC_EOS past the input. -/
def fetchDec (r : SpaceRule) (d : Dec) : Instr :=
  match memRead d.inp d.ptr with
  | none => .decEos
  | some b =>
    if terminatesUnder r (readSlot b d.cur) d.acc then
      match decodeCodeWord d.acc with
      | .instr i => i
      | .reject _ => decodeSymbol (readSlot b d.cur)
    else decodeSymbol (readSlot b d.cur)

/-- A unit is in RUN: exactly one of its steps is enabled (R158, R172). -/
def State.running (s : State) : UnitId → Bool
  | .enc => s.enc.status == .run
  | .dec => s.dec.status == .run

/-- The other unit. -/
def otherUnit : UnitId → UnitId
  | .enc => .dec
  | .dec => .enc

/-- The unit that moves: the selected one if it is in RUN, else the other if that one is (log 3). -/
def State.mover (s : State) : Option UnitId :=
  if s.running s.sel then some s.sel
  else if s.running (otherUnit s.sel) then some (otherUnit s.sel)
  else none

/-- A unit's next instruction. -/
def State.fetchOf (s : State) : UnitId → Instr
  | .enc => fetchEnc s.enc
  | .dec => fetchDec s.spaceRule s.dec

/-- The operation that a call of the host starts (R222). -/
def callInstr : Call → Instr
  | .encode text => .encode text
  | .decode bytes => .decode bytes

/-- What the next step runs, and the state it runs in: the moving unit's instruction; with no unit in RUN, the host's oldest
call, which is taken from the list (log 4); else nothing. -/
def fetch (s : State) : Option (Instr × State) :=
  match s.mover with
  | some u => some (s.fetchOf u, s)
  | none =>
    match s.calls with
    | c :: rest => some (callInstr c, { s with calls := rest })
    | [] => none

/-- The least count of positions after which every position of `w` is `00` (R23 b), searched down from `n`. -/
def positionsUsed (w : CodeWord) : Nat → Nat
  | 0 => 0
  | n + 1 => if positionOf w n = Config.symEnd then positionsUsed w n else n + 1

/-- A byte of the packed buffer put where DEC reads next, at a character boundary (log 18). -/
def State.withSymbolByte (s : State) (b : Byte) : State :=
  { s with
    sel := .dec
    dec := { s.dec with inp := [b], ptr := 0, cur := 0#2, acc := 0x0000#16, k := 0#4, status := .run } }

/-- A code word put where DEC looks it up next: accumulated, with its terminating End the next symbol. The word 0x0000 is
looked up under IMMEDIATE only (R62), so that selection goes with it (log 18). -/
def State.withCodeWord (s : State) (w : CodeWord) : State :=
  { s with
    sel := .dec
    spaceRule := if w = 0x0000#16 then .immediate else s.spaceRule
    dec := { s.dec with
      inp := [0x00#8], ptr := 0, cur := 0#2, acc := w,
      k := BitVec.ofNat 4 (positionsUsed w Config.cwSlots), status := .run } }

/-- Where the bits of an opcode-table row are stored so that the next step runs them (log 18). -/
def State.withTableWord (s : State) (nbits w : Nat) : State :=
  if nbits = 16 then s.withCodeWord (BitVec.ofNat 16 w)
  else if 0 < nbits ∧ nbits ≤ 8 then s.withSymbolByte (BitVec.ofNat 8 w)
  else s

end Sys2Proof.Machine
end

