-- ==== Sys2Proof/Machine/Step.lean ====
section
/-! DEFINITION. One step of the machine: the enabled step of the unit that moves, or the host's next call. -/

namespace Sys2Proof.Machine

/-- One step. Where no unit is in RUN and the host asks for nothing, no step is enabled (R17, R25, R223). -/
def step (s : State) : Host.Outcome State Fault Refusal :=
  match fetch s with
  | some (i, s') => exec i s'
  | none => .fault .noStepEnabled

/-- `s` with the bits of an opcode-table row stored where the next step takes its instruction (log 18). -/
def State.withFetchWord (s : State) (nbits w : Nat) : State := s.withTableWord nbits w

end Sys2Proof.Machine
end

