-- ==== Sys2Proof/Safety.lean ====
section
/-! DEFINITION. The terms in which claims about morse CORE are made: the machine's invariant (spec/10_state.md R15, R23), the
symbol stream of a text (spec/44_encoder.md R158), the unit an instruction writes, and safe runs. -/

namespace Sys2Proof

/-! ## Streams of symbols -/

/-- The symbols ENC puts for a character (R155), none if it is unsupported (R153). -/
def charStream (c : Byte) : Option (List Sym) := (Machine.fwd (foldCode c)).map Machine.streamForm

/-- The stream S of a text (R158): the characters' symbols one after the other, none if some character is unsupported. -/
def streamOf : Buffer → Option (List Sym)
  | [] => some []
  | c :: rest =>
    match charStream c, streamOf rest with
    | some q, some qs => some (q ++ qs)
    | some _, none => none
    | none, _ => none

/-- The symbols of a packed buffer in stream order (R39): the four slots of each byte, slot 0 first. -/
def slotsOf : Buffer → List Sym
  | [] => []
  | b :: rest => slotOf b 0 :: slotOf b 1 :: slotOf b 2 :: slotOf b 3 :: slotsOf rest

/-- Symbol `t` of a stream, `00` past its end (R158). -/
def symAt (q : List Sym) (t : Nat) : Sym := q.getD t Config.symEnd

/-- A text of `n` spaces. -/
def spaces (n : Nat) : Buffer := List.replicate n Config.spaceCode

/-- The text in upper case (R59, R186). -/
def upperText (text : Buffer) : Buffer := text.map foldCode

/-- ceil(n / 4) (R159). -/
def bytesFor (n : Nat) : Nat := (n + 3) / 4

namespace Machine

/-! ## The invariant -/

/-- What the status of ENC records is what ENC holds (R17, R157, R201). -/
def Enc.StatusMatches (e : Enc) : Prop :=
  match e.status with
  | .run => True
  | .done => e.idx = e.text.length
  | .fault info => info.index = e.idx ∧ e.text[e.idx]? = some info.code ∧ supported info.code = false

/-- The invariant of ENC (R13, R15, R17). -/
structure Enc.Inv (e : Enc) : Prop where
  /-- R13: `idx` is in 0..L. -/
  idx_le : e.idx ≤ e.text.length
  /-- R15: the output is in canonical form, the slots not yet written hold `00`. -/
  packed : Memory.wf e.out e.cur = true
  status_matches : e.StatusMatches

/-- What the status of DEC records is what DEC holds (R25, R181, R182, R202). -/
def Dec.StatusMatches (d : Dec) : Prop :=
  match d.status with
  | .run => True
  | .done => d.ptr = d.inp.length
  | .fault info => info.word = d.acc

/-- The invariant of DEC under a space rule (R22, R23, R24). -/
structure Dec.Inv (r : SpaceRule) (d : Dec) : Prop where
  /-- R22: the count is at most 8. -/
  count_le : d.k.toNat ≤ Config.cwSlots
  /-- R23 (a). -/
  boundary : d.k = 0#4 → d.acc = 0x0000#16
  /-- R23 (b): positions k to 7 hold `00`. -/
  unused : ∀ j, d.k.toNat ≤ j → j < Config.cwSlots → positionOf d.acc j = Config.symEnd
  /-- R23 (d). -/
  ptr_le : d.ptr ≤ d.inp.length
  /-- R23 (d). -/
  cur_at_end : d.ptr = d.inp.length → d.cur = 0#2
  /-- R23 (e). -/
  immediate : r = .immediate → d.k ≠ 0#4 → d.acc ≠ 0x0000#16 ∧ positionOf d.acc 0 ≠ Config.symEnd
  /-- R24, R191: only codes of the table are in the output, so no lower-case letter. -/
  codes : ∀ c ∈ d.out, ∃ row ∈ table, row.code = c
  status_matches : d.StatusMatches

/-- The invariant of the machine: both units'. -/
structure State.Inv (s : State) : Prop where
  enc : s.enc.Inv
  dec : s.dec.Inv s.spaceRule

/-! ## Instructions and units -/

/-- DEC after the symbol that (ptr, cur) names has been read (R176). -/
def Dec.pastSymbol (d : Dec) : Dec :=
  { d with cur := d.cur + 1#2, ptr := if d.cur = 3#2 then d.ptr + 1 else d.ptr }

/-- The unit whose state an instruction may write; none for an operation that only returns a value. -/
def unitOf : Instr → Option UnitId
  | .charA u => some u
  | .charB u => some u
  | .charC u => some u
  | .charD u => some u
  | .charE u => some u
  | .charF u => some u
  | .charG u => some u
  | .charH u => some u
  | .charI u => some u
  | .charJ u => some u
  | .charK u => some u
  | .charL u => some u
  | .charM u => some u
  | .charN u => some u
  | .charO u => some u
  | .charP u => some u
  | .charQ u => some u
  | .charR u => some u
  | .charS u => some u
  | .charT u => some u
  | .charU u => some u
  | .charV u => some u
  | .charW u => some u
  | .charX u => some u
  | .charY u => some u
  | .charZ u => some u
  | .char0 u => some u
  | .char1 u => some u
  | .char2 u => some u
  | .char3 u => some u
  | .char4 u => some u
  | .char5 u => some u
  | .char6 u => some u
  | .char7 u => some u
  | .char8 u => some u
  | .char9 u => some u
  | .charColon u => some u
  | .charPeriod u => some u
  | .charQuestion u => some u
  | .charSlash u => some u
  | .charHyphen u => some u
  | .charLparen u => some u
  | .charRparen u => some u
  | .charSpace u => some u
  | .symEnd => some .dec
  | .symDit => some .dec
  | .symDah => some .dec
  | .symReserved => some .dec
  | .byte _ _ _ _ => none
  | .codeword _ _ _ _ _ _ _ _ => none
  | .shift _ => none
  | .advance _ => none
  | .write _ _ _ => none
  | .read _ _ => none
  | .fold _ => none
  | .fwd _ => none
  | .put _ => some .enc
  | .encChar => some .enc
  | .encDone => some .enc
  | .encode _ => some .enc
  | .place _ _ _ => none
  | .rev _ => none
  | .terminates _ _ => none
  | .decSym => some .dec
  | .decEos => some .dec
  | .decode _ => some .dec

/-! ## Runs of DEC's steps -/

/-- DEC runs from `s` to `t`, where its pass is over, in `n` steps, each the one that R184's loop takes: DEC_SYM below the end
of the input, DEC_EOS at it. -/
inductive DecodeRun : Nat → State → State → Prop where
  /-- DONE or FAULT: no step follows (R205). -/
  | ended {s : State} (h : s.dec.status ≠ .run) : DecodeRun 0 s s
  | symbol {n : Nat} {s u t : State} (hr : s.dec.status = .run) (hp : s.dec.ptr < s.dec.inp.length)
      (hs : exec .decSym s = .next u) (h : DecodeRun n u t) : DecodeRun (n + 1) s t
  | endOfStream {n : Nat} {s u t : State} (hr : s.dec.status = .run) (hp : s.dec.ptr = s.dec.inp.length)
      (hs : exec .decEos s = .next u) (h : DecodeRun n u t) : DecodeRun (n + 1) s t

/-! ## Safe runs -/

/-- A unit's pass is over: DONE or FAULT (R223). -/
def State.ended (s : State) (u : UnitId) : Bool := !s.running u

/-- A step is safe if the machine goes on: it answers a next state (a fault of R200 among them), no stop of the model. -/
def SafeStep (s : State) : Prop := ∃ t, step s = .next t

end Machine

end Sys2Proof
end

