-- ==== Sys2Proof/Certificates/Slice0/Obligations.lean ====
section
/-! DEFINITION. The statements about morse CORE, each a rule of spec/ or what follows from its rules. The definitions before the
statements are the shapes that several statements share. -/

open Sys2Proof Sys2Proof.Machine

namespace Sys2Proof.Claims

/-- What the rule of a row says of it (R100 to R147): its code, its sequence, its code word, both look-ups, and the worked
example, ENCODE of the one-character text and DECODE of that under both space rules. That the code word and the code decode to
the instruction `mk` of DEC and of ENC is no clause of those rules: it is the model's reading of the table as an opcode map (R60,
R64; logs 8 and 11). -/
def RowRule (mk : UnitId → Instr) (code : Byte) (q : List Sym) (w : CodeWord) (bytes absorbText immediateText : Buffer) : Prop :=
  fwd code = some q ∧ codeWordOf q = w ∧ rev w = some code ∧
  decode .codeWord16 w.toNat = .instr (mk .dec) ∧ decode .charCode8 code.toNat = .instr (mk .enc) ∧
  (∀ s : State, ∃ e, exec (.encode [code]) s = .next { s with enc := e, ret := .encoded (.ok bytes) }) ∧
  (∀ s : State, s.spaceRule = .absorb →
    ∃ d, exec (.decode bytes) s = .next { s with dec := d, ret := .decoded (.ok absorbText) }) ∧
  (∀ s : State, s.spaceRule = .immediate →
    ∃ d, exec (.decode bytes) s = .next { s with dec := d, ret := .decoded (.ok immediateText) })

/-- A lower-case code folds to the code of its row (R151, R100 to R125), and is read as that row's instruction of ENC (the model's
reading, logs 8 and 11). -/
def FoldsTo (lower code : Byte) (mk : UnitId → Instr) : Prop :=
  foldCode lower = code ∧ decode .charCode8 lower.toNat = .instr (mk .enc)

/-- Run by ENC, `mk` completes where ENC_CHAR is enabled and the output can be indexed: it puts `q` and then End and moves the
index by one; every other field of the machine is unchanged (R155, R156). -/
def PutsSymbols (mk : UnitId → Instr) (q : List Sym) : Prop :=
  ∀ s : State, s.enc.status = .run → s.enc.idx < s.enc.text.length → (s.enc.cur = 0#2 ∨ s.enc.out ≠ []) →
    ∃ e, s.enc.puts (q ++ [Config.symEnd]) = some e ∧
      exec (mk .enc) s = .next { s with enc := { s.enc with idx := s.enc.idx + 1, cur := e.cur, out := e.out } }

/-- Run by DEC, `mk` completes where DEC_SYM is enabled: the terminating End is read, `code` is appended, the code word and the
count are cleared; every other field of the machine is unchanged (R176, R178). -/
def EmitsCode (mk : UnitId → Instr) (code : Byte) : Prop :=
  ∀ s : State, s.dec.status = .run → s.dec.ptr < s.dec.inp.length →
    exec (mk .dec) s =
      .next { s with dec := { s.dec.pastSymbol with out := s.dec.out ++ [code], acc := 0x0000#16, k := 0#4 } }

/-- Case (a), (b), (c) of R180 for the symbol instruction `i` of value `v` (log 9), where it does not terminate. -/
def Accumulates (i : Instr) (v : Sym) : Prop :=
  ∀ s : State, s.dec.status = .run → s.dec.ptr < s.dec.inp.length → terminatesUnder s.spaceRule v s.dec.acc = false →
    (s.dec.k.toNat < 8 →
      exec i s = .next { s with dec := { s.dec.pastSymbol with
        acc := s.dec.acc ||| (v.setWidth 16 <<< (14 - 2 * s.dec.k.toNat)), k := s.dec.k + 1#4 } }) ∧
    (s.dec.k = 8#4 → v = 0b00#2 → exec i s = .next { s with dec := s.dec.pastSymbol }) ∧
    (s.dec.k = 8#4 → v ≠ 0b00#2 →
      exec i s = .next { s with dec := { s.dec with
        status := .fault { cause := .overflow, word := s.dec.acc, index := 4 * s.dec.ptr + s.dec.cur.toNat } } })

end Sys2Proof.Claims

open Sys2Proof.Claims

/-- R71: SHIFT(cursor) = 2 * cursor, and nothing else changes. -/
def Obligations.ShiftReturnsTwiceTheCursor : Prop :=
  ∀ (c : Cursor) (s : State), ∃ v : BitVec 3,
    exec (.shift c) s = .next { s with ret := .shiftAmount v } ∧ v.toNat = 2 * c.toNat

/-- R72: ADVANCE(cursor) = (cursor + 1) mod 4; four applications return the starting cursor. -/
def Obligations.AdvanceReturnsTheNextCursor : Prop :=
  (∀ (c : Cursor) (s : State), ∃ v : Cursor,
    exec (.advance c) s = .next { s with ret := .cursor v } ∧ v.toNat = (c.toNat + 1) % 4) ∧
  ∀ c : Cursor, nextCursor (nextCursor (nextCursor (nextCursor c))) = c

/-- R74 with its corner cases (a) to (d). -/
def Obligations.WriteOrsTheSymbolIntoTheSlot : Prop :=
  ∀ (v : Sym) (b : Byte) (c : Cursor) (s : State), ∃ r : Byte,
    exec (.write v b c) s = .next { s with ret := .byte r } ∧
    r = b ||| (v.setWidth 8 <<< (2 * c.toNat)) ∧
    slotOf r c.toNat = slotOf b c.toNat ||| v ∧
    (slotOf b c.toNat = 0b00#2 → slotOf r c.toNat = v) ∧
    (∀ i, i < 4 → i ≠ c.toNat → slotOf r i = slotOf b i) ∧
    (v = 0b00#2 → r = b) ∧ b &&& r = b

/-- R75: READ(byte, cursor) = (byte >> SHIFT(cursor)) & 0b11. -/
def Obligations.ReadExtractsTheSlot : Prop :=
  ∀ (b : Byte) (c : Cursor) (s : State), ∃ v : Sym,
    exec (.read b c) s = .next { s with ret := .symbol v } ∧ v = slotOf b c.toNat ∧
    v.toNat = b.toNat / 2 ^ (2 * c.toNat) % 4

/-- R76, laws 1 to 7. -/
def Obligations.PrimitiveLaws : Prop :=
  (∀ (b : Byte) (s : Sym) (c : Cursor), readSlot b c = 0b00#2 → readSlot (writeSlot s b c) c = s) ∧
  (∀ (b : Byte) (s : Sym) (c : Cursor), readSlot (writeSlot s b c) c = readSlot b c ||| s) ∧
  (∀ (b : Byte) (s : Sym) (c d : Cursor), d ≠ c → readSlot (writeSlot s b c) d = readSlot b d) ∧
  (∀ (b : Byte) (s t : Sym) (c d : Cursor),
    writeSlot s (writeSlot t b d) c = writeSlot t (writeSlot s b c) d) ∧
  (∀ b : Byte, b = byteOf (readSlot b 0#2) (readSlot b 1#2) (readSlot b 2#2) (readSlot b 3#2)) ∧
  (∀ s0 s1 s2 s3 : Sym,
    writeSlot s3 (writeSlot s2 (writeSlot s1 (writeSlot s0 0x00#8 0#2) 1#2) 2#2) 3#2 = byteOf s0 s1 s2 s3) ∧
  (∀ c d : Cursor, nextCursor c = nextCursor d → c = d) ∧ (∀ d : Cursor, ∃ c : Cursor, nextCursor c = d) ∧
  (∀ c : Cursor, nextCursor (nextCursor (nextCursor (nextCursor c))) = c ∧ nextCursor c ≠ c ∧
    nextCursor (nextCursor c) ≠ c ∧ nextCursor (nextCursor (nextCursor c)) ≠ c)

/-- R53: the byte of four symbols in stream order. That the row BYTE returns it is the model's choice (log 10). -/
def Obligations.ByteHoldsFourSymbolsInStreamOrder : Prop :=
  ∀ (s0 s1 s2 s3 : Sym) (s : State), ∃ b : Byte,
    exec (.byte s0 s1 s2 s3) s = .next { s with ret := .byte b } ∧
    slotOf b 0 = s0 ∧ slotOf b 1 = s1 ∧ slotOf b 2 = s2 ∧ slotOf b 3 = s3 ∧
    b.toNat = s0.toNat + 4 * s1.toNat + 16 * s2.toNat + 64 * s3.toNat

/-- R56, R57: the code word of eight symbols. That the row CODEWORD returns it is the model's choice (log 10). -/
def Obligations.CodewordHoldsEightPositions : Prop :=
  ∀ (p0 p1 p2 p3 p4 p5 p6 p7 : Sym) (s : State), ∃ w : CodeWord,
    exec (.codeword p0 p1 p2 p3 p4 p5 p6 p7) s = .next { s with ret := .codeWord w } ∧
    positionOf w 0 = p0 ∧ positionOf w 1 = p1 ∧ positionOf w 2 = p2 ∧ positionOf w 3 = p3 ∧
    positionOf w 4 = p4 ∧ positionOf w 5 = p5 ∧ positionOf w 6 = p6 ∧ positionOf w 7 = p7 ∧
    w = p0 ++ p1 ++ p2 ++ p3 ++ p4 ++ p5 ++ p6 ++ p7

/-- R151: FOLD. -/
def Obligations.FoldUppercasesLettersOnly : Prop :=
  (∀ (c : Byte) (s : State), ∃ v : Byte, exec (.fold c) s = .next { s with ret := .code v } ∧
    (0x61 ≤ c.toNat ∧ c.toNat ≤ 0x7A → v.toNat = c.toNat - 0x20) ∧
    (c.toNat < 0x61 ∨ 0x7A < c.toNat → v = c)) ∧
  ∀ c : Byte, foldCode (foldCode c) = foldCode c

/-- R152: FWD over the 44 rows. -/
def Obligations.ForwardLookUpFindsTheRow : Prop :=
  (∀ (c : Byte) (s : State), ∃ v : Option (List Sym), exec (.fwd c) s = .next { s with ret := .sequence v } ∧
    (∀ row ∈ table, row.code = c → v = some row.seq) ∧
    ((∀ row ∈ table, row.code ≠ c) → v = none) ∧
    (∀ q, v = some q → q.length ≤ 6 ∧ ∀ x ∈ q, x = 0b01#2 ∨ x = 0b10#2)) ∧
  fwd 0x61#8 = none ∧ fwd 0x20#8 = some []

/-- R174: REV over the 44 rows, exact on all 16 bits. -/
def Obligations.ReverseLookUpFindsTheRow : Prop :=
  (∀ (w : CodeWord) (s : State), ∃ v : Option Byte, exec (.rev w) s = .next { s with ret := .lookUp v } ∧
    (∀ row ∈ table, codeWordOf row.seq = w → v = some row.code) ∧
    ((∀ row ∈ table, codeWordOf row.seq ≠ w) → v = none)) ∧
  (table.map (fun row => codeWordOf row.seq)).Nodup ∧ table.length = 44

/-- R93: the mirror property of FWD and REV. -/
def Obligations.TableDirectionsMirror : Prop :=
  (∀ (c : Byte) (q : List Sym), fwd c = some q → rev (codeWordOf q) = some c) ∧
  (∀ (w : CodeWord) (c : Byte), rev w = some c → ∃ q, fwd c = some q ∧ codeWordOf q = w)

/-- R90, R91, R92: the table. -/
def Obligations.TableRowsAreInjective : Prop :=
  table.length = 44 ∧ (∀ row ∈ table, ∀ x ∈ row.seq, x = 0b01#2 ∨ x = 0b10#2) ∧
  (∀ row ∈ table, row.seq = [] ↔ row.code = 0x20#8) ∧
  (table.map Row.code).Nodup ∧ (table.map Row.seq).Nodup ∧ (table.map (fun row => codeWordOf row.seq)).Nodup

/-- R153: the supported set. -/
def Obligations.SupportedCodesAreSeventy : Prop :=
  (∀ c : Byte, (fwd (foldCode c) ≠ none) ↔
    (c = 0x20#8 ∨ c = 0x28#8 ∨ c = 0x29#8 ∨ (0x2D ≤ c.toNat ∧ c.toNat ≤ 0x3A) ∨ c = 0x3F#8 ∨
      (0x41 ≤ c.toNat ∧ c.toNat ≤ 0x5A) ∨ (0x61 ≤ c.toNat ∧ c.toNat ≤ 0x7A))) ∧
  ((List.range 256).filter (fun n => (fwd (foldCode (BitVec.ofNat 8 n))).isSome)).length = 70

/-- R100 to R111, row by row; that a word decodes to an instruction of a unit is the model's reading (R60, R64; logs 8 and
11). -/
def Obligations.RowsAToLFollowTheirRules : Prop :=
  RowRule .charA 0x41#8 [0b01#2, 0b10#2] 0x6000#16 [0x09#8] [0x41#8, 0x20#8] [0x41#8, 0x20#8] ∧ FoldsTo 0x61#8 0x41#8 .charA ∧
  RowRule .charB 0x42#8 [0b10#2, 0b01#2, 0b01#2, 0b01#2] 0x9500#16 [0x56#8, 0x00#8] [0x42#8, 0x20#8] [0x42#8, 0x20#8, 0x20#8, 0x20#8] ∧ FoldsTo 0x62#8 0x42#8 .charB ∧
  RowRule .charC 0x43#8 [0b10#2, 0b01#2, 0b10#2, 0b01#2] 0x9900#16 [0x66#8, 0x00#8] [0x43#8, 0x20#8] [0x43#8, 0x20#8, 0x20#8, 0x20#8] ∧ FoldsTo 0x63#8 0x43#8 .charC ∧
  RowRule .charD 0x44#8 [0b10#2, 0b01#2, 0b01#2] 0x9400#16 [0x16#8] [0x44#8] [0x44#8] ∧ FoldsTo 0x64#8 0x44#8 .charD ∧
  RowRule .charE 0x45#8 [0b01#2] 0x4000#16 [0x01#8] [0x45#8, 0x20#8] [0x45#8, 0x20#8, 0x20#8] ∧ FoldsTo 0x65#8 0x45#8 .charE ∧
  RowRule .charF 0x46#8 [0b01#2, 0b01#2, 0b10#2, 0b01#2] 0x5900#16 [0x65#8, 0x00#8] [0x46#8, 0x20#8] [0x46#8, 0x20#8, 0x20#8, 0x20#8] ∧ FoldsTo 0x66#8 0x46#8 .charF ∧
  RowRule .charG 0x47#8 [0b10#2, 0b10#2, 0b01#2] 0xA400#16 [0x1A#8] [0x47#8] [0x47#8] ∧ FoldsTo 0x67#8 0x47#8 .charG ∧
  RowRule .charH 0x48#8 [0b01#2, 0b01#2, 0b01#2, 0b01#2] 0x5500#16 [0x55#8, 0x00#8] [0x48#8, 0x20#8] [0x48#8, 0x20#8, 0x20#8, 0x20#8] ∧ FoldsTo 0x68#8 0x48#8 .charH ∧
  RowRule .charI 0x49#8 [0b01#2, 0b01#2] 0x5000#16 [0x05#8] [0x49#8, 0x20#8] [0x49#8, 0x20#8] ∧ FoldsTo 0x69#8 0x49#8 .charI ∧
  RowRule .charJ 0x4A#8 [0b01#2, 0b10#2, 0b10#2, 0b10#2] 0x6A00#16 [0xA9#8, 0x00#8] [0x4A#8, 0x20#8] [0x4A#8, 0x20#8, 0x20#8, 0x20#8] ∧ FoldsTo 0x6A#8 0x4A#8 .charJ ∧
  RowRule .charK 0x4B#8 [0b10#2, 0b01#2, 0b10#2] 0x9800#16 [0x26#8] [0x4B#8] [0x4B#8] ∧ FoldsTo 0x6B#8 0x4B#8 .charK ∧
  RowRule .charL 0x4C#8 [0b01#2, 0b10#2, 0b01#2, 0b01#2] 0x6500#16 [0x59#8, 0x00#8] [0x4C#8, 0x20#8] [0x4C#8, 0x20#8, 0x20#8, 0x20#8] ∧ FoldsTo 0x6C#8 0x4C#8 .charL

/-- R112 to R123, row by row; that a word decodes to an instruction of a unit is the model's reading (R60, R64; logs 8 and
11). -/
def Obligations.RowsMToXFollowTheirRules : Prop :=
  RowRule .charM 0x4D#8 [0b10#2, 0b10#2] 0xA000#16 [0x0A#8] [0x4D#8, 0x20#8] [0x4D#8, 0x20#8] ∧ FoldsTo 0x6D#8 0x4D#8 .charM ∧
  RowRule .charN 0x4E#8 [0b10#2, 0b01#2] 0x9000#16 [0x06#8] [0x4E#8, 0x20#8] [0x4E#8, 0x20#8] ∧ FoldsTo 0x6E#8 0x4E#8 .charN ∧
  RowRule .charO 0x4F#8 [0b10#2, 0b10#2, 0b10#2] 0xA800#16 [0x2A#8] [0x4F#8] [0x4F#8] ∧ FoldsTo 0x6F#8 0x4F#8 .charO ∧
  RowRule .charP 0x50#8 [0b01#2, 0b10#2, 0b10#2, 0b01#2] 0x6900#16 [0x69#8, 0x00#8] [0x50#8, 0x20#8] [0x50#8, 0x20#8, 0x20#8, 0x20#8] ∧ FoldsTo 0x70#8 0x50#8 .charP ∧
  RowRule .charQ 0x51#8 [0b10#2, 0b10#2, 0b01#2, 0b10#2] 0xA600#16 [0x9A#8, 0x00#8] [0x51#8, 0x20#8] [0x51#8, 0x20#8, 0x20#8, 0x20#8] ∧ FoldsTo 0x71#8 0x51#8 .charQ ∧
  RowRule .charR 0x52#8 [0b01#2, 0b10#2, 0b01#2] 0x6400#16 [0x19#8] [0x52#8] [0x52#8] ∧ FoldsTo 0x72#8 0x52#8 .charR ∧
  RowRule .charS 0x53#8 [0b01#2, 0b01#2, 0b01#2] 0x5400#16 [0x15#8] [0x53#8] [0x53#8] ∧ FoldsTo 0x73#8 0x53#8 .charS ∧
  RowRule .charT 0x54#8 [0b10#2] 0x8000#16 [0x02#8] [0x54#8, 0x20#8] [0x54#8, 0x20#8, 0x20#8] ∧ FoldsTo 0x74#8 0x54#8 .charT ∧
  RowRule .charU 0x55#8 [0b01#2, 0b01#2, 0b10#2] 0x5800#16 [0x25#8] [0x55#8] [0x55#8] ∧ FoldsTo 0x75#8 0x55#8 .charU ∧
  RowRule .charV 0x56#8 [0b01#2, 0b01#2, 0b01#2, 0b10#2] 0x5600#16 [0x95#8, 0x00#8] [0x56#8, 0x20#8] [0x56#8, 0x20#8, 0x20#8, 0x20#8] ∧ FoldsTo 0x76#8 0x56#8 .charV ∧
  RowRule .charW 0x57#8 [0b01#2, 0b10#2, 0b10#2] 0x6800#16 [0x29#8] [0x57#8] [0x57#8] ∧ FoldsTo 0x77#8 0x57#8 .charW ∧
  RowRule .charX 0x58#8 [0b10#2, 0b01#2, 0b01#2, 0b10#2] 0x9600#16 [0x96#8, 0x00#8] [0x58#8, 0x20#8] [0x58#8, 0x20#8, 0x20#8, 0x20#8] ∧ FoldsTo 0x78#8 0x58#8 .charX

/-- R124 to R139, row by row; that a word decodes to an instruction of a unit is the model's reading (R60, R64; logs 8 and
11). -/
def Obligations.RowsYZAndDigitsFollowTheirRules : Prop :=
  RowRule .charY 0x59#8 [0b10#2, 0b01#2, 0b10#2, 0b10#2] 0x9A00#16 [0xA6#8, 0x00#8] [0x59#8, 0x20#8] [0x59#8, 0x20#8, 0x20#8, 0x20#8] ∧ FoldsTo 0x79#8 0x59#8 .charY ∧
  RowRule .charZ 0x5A#8 [0b10#2, 0b10#2, 0b01#2, 0b01#2] 0xA500#16 [0x5A#8, 0x00#8] [0x5A#8, 0x20#8] [0x5A#8, 0x20#8, 0x20#8, 0x20#8] ∧ FoldsTo 0x7A#8 0x5A#8 .charZ ∧
  RowRule .char0 0x30#8 [0b10#2, 0b10#2, 0b10#2, 0b10#2, 0b10#2] 0xAA80#16 [0xAA#8, 0x02#8] [0x30#8, 0x20#8] [0x30#8, 0x20#8, 0x20#8] ∧
  RowRule .char1 0x31#8 [0b01#2, 0b10#2, 0b10#2, 0b10#2, 0b10#2] 0x6A80#16 [0xA9#8, 0x02#8] [0x31#8, 0x20#8] [0x31#8, 0x20#8, 0x20#8] ∧
  RowRule .char2 0x32#8 [0b01#2, 0b01#2, 0b10#2, 0b10#2, 0b10#2] 0x5A80#16 [0xA5#8, 0x02#8] [0x32#8, 0x20#8] [0x32#8, 0x20#8, 0x20#8] ∧
  RowRule .char3 0x33#8 [0b01#2, 0b01#2, 0b01#2, 0b10#2, 0b10#2] 0x5680#16 [0x95#8, 0x02#8] [0x33#8, 0x20#8] [0x33#8, 0x20#8, 0x20#8] ∧
  RowRule .char4 0x34#8 [0b01#2, 0b01#2, 0b01#2, 0b01#2, 0b10#2] 0x5580#16 [0x55#8, 0x02#8] [0x34#8, 0x20#8] [0x34#8, 0x20#8, 0x20#8] ∧
  RowRule .char5 0x35#8 [0b01#2, 0b01#2, 0b01#2, 0b01#2, 0b01#2] 0x5540#16 [0x55#8, 0x01#8] [0x35#8, 0x20#8] [0x35#8, 0x20#8, 0x20#8] ∧
  RowRule .char6 0x36#8 [0b10#2, 0b01#2, 0b01#2, 0b01#2, 0b01#2] 0x9540#16 [0x56#8, 0x01#8] [0x36#8, 0x20#8] [0x36#8, 0x20#8, 0x20#8] ∧
  RowRule .char7 0x37#8 [0b10#2, 0b10#2, 0b01#2, 0b01#2, 0b01#2] 0xA540#16 [0x5A#8, 0x01#8] [0x37#8, 0x20#8] [0x37#8, 0x20#8, 0x20#8] ∧
  RowRule .char8 0x38#8 [0b10#2, 0b10#2, 0b10#2, 0b01#2, 0b01#2] 0xA940#16 [0x6A#8, 0x01#8] [0x38#8, 0x20#8] [0x38#8, 0x20#8, 0x20#8] ∧
  RowRule .char9 0x39#8 [0b10#2, 0b10#2, 0b10#2, 0b10#2, 0b01#2] 0xAA40#16 [0xAA#8, 0x01#8] [0x39#8, 0x20#8] [0x39#8, 0x20#8, 0x20#8]

/-- R140 to R147, row by row; that a word decodes to an instruction of a unit is the model's reading (R60, R64; logs 8 and
11). -/
def Obligations.RowsOfMarksFollowTheirRules : Prop :=
  RowRule .charColon 0x3A#8 [0b10#2, 0b10#2, 0b10#2, 0b01#2, 0b01#2, 0b01#2] 0xA950#16 [0x6A#8, 0x05#8] [0x3A#8, 0x20#8] [0x3A#8, 0x20#8] ∧
  RowRule .charPeriod 0x2E#8 [0b01#2, 0b10#2, 0b01#2, 0b10#2, 0b01#2, 0b10#2] 0x6660#16 [0x99#8, 0x09#8] [0x2E#8, 0x20#8] [0x2E#8, 0x20#8] ∧
  RowRule .charQuestion 0x3F#8 [0b01#2, 0b01#2, 0b10#2, 0b10#2, 0b01#2, 0b01#2] 0x5A50#16 [0xA5#8, 0x05#8] [0x3F#8, 0x20#8] [0x3F#8, 0x20#8] ∧
  RowRule .charSlash 0x2F#8 [0b10#2, 0b01#2, 0b01#2, 0b10#2, 0b01#2] 0x9640#16 [0x96#8, 0x01#8] [0x2F#8, 0x20#8] [0x2F#8, 0x20#8, 0x20#8] ∧
  RowRule .charHyphen 0x2D#8 [0b10#2, 0b01#2, 0b01#2, 0b01#2, 0b01#2, 0b10#2] 0x9560#16 [0x56#8, 0x09#8] [0x2D#8, 0x20#8] [0x2D#8, 0x20#8] ∧
  RowRule .charLparen 0x28#8 [0b10#2, 0b01#2, 0b10#2, 0b10#2, 0b01#2] 0x9A40#16 [0xA6#8, 0x01#8] [0x28#8, 0x20#8] [0x28#8, 0x20#8, 0x20#8] ∧
  RowRule .charRparen 0x29#8 [0b10#2, 0b01#2, 0b10#2, 0b10#2, 0b01#2, 0b10#2] 0x9A60#16 [0xA6#8, 0x09#8] [0x29#8, 0x20#8] [0x29#8, 0x20#8] ∧
  RowRule .charSpace 0x20#8 [] 0x0000#16 [0x00#8] [0x20#8] [0x20#8, 0x20#8, 0x20#8, 0x20#8]

/-- R155, R156 for each row; that a row is an instruction of ENC is the model's reading (log 8). -/
def Obligations.LettersPutTheirSymbolsInEnc : Prop :=
  PutsSymbols .charA [0b01#2, 0b10#2] ∧
  PutsSymbols .charB [0b10#2, 0b01#2, 0b01#2, 0b01#2] ∧
  PutsSymbols .charC [0b10#2, 0b01#2, 0b10#2, 0b01#2] ∧
  PutsSymbols .charD [0b10#2, 0b01#2, 0b01#2] ∧
  PutsSymbols .charE [0b01#2] ∧
  PutsSymbols .charF [0b01#2, 0b01#2, 0b10#2, 0b01#2] ∧
  PutsSymbols .charG [0b10#2, 0b10#2, 0b01#2] ∧
  PutsSymbols .charH [0b01#2, 0b01#2, 0b01#2, 0b01#2] ∧
  PutsSymbols .charI [0b01#2, 0b01#2] ∧
  PutsSymbols .charJ [0b01#2, 0b10#2, 0b10#2, 0b10#2] ∧
  PutsSymbols .charK [0b10#2, 0b01#2, 0b10#2] ∧
  PutsSymbols .charL [0b01#2, 0b10#2, 0b01#2, 0b01#2] ∧
  PutsSymbols .charM [0b10#2, 0b10#2] ∧
  PutsSymbols .charN [0b10#2, 0b01#2] ∧
  PutsSymbols .charO [0b10#2, 0b10#2, 0b10#2] ∧
  PutsSymbols .charP [0b01#2, 0b10#2, 0b10#2, 0b01#2] ∧
  PutsSymbols .charQ [0b10#2, 0b10#2, 0b01#2, 0b10#2] ∧
  PutsSymbols .charR [0b01#2, 0b10#2, 0b01#2] ∧
  PutsSymbols .charS [0b01#2, 0b01#2, 0b01#2] ∧
  PutsSymbols .charT [0b10#2] ∧
  PutsSymbols .charU [0b01#2, 0b01#2, 0b10#2] ∧
  PutsSymbols .charV [0b01#2, 0b01#2, 0b01#2, 0b10#2] ∧
  PutsSymbols .charW [0b01#2, 0b10#2, 0b10#2] ∧
  PutsSymbols .charX [0b10#2, 0b01#2, 0b01#2, 0b10#2] ∧
  PutsSymbols .charY [0b10#2, 0b01#2, 0b10#2, 0b10#2] ∧
  PutsSymbols .charZ [0b10#2, 0b10#2, 0b01#2, 0b01#2]

/-- R155, R156 for each row; that a row is an instruction of ENC is the model's reading (log 8). -/
def Obligations.DigitsPutTheirSymbolsInEnc : Prop :=
  PutsSymbols .char0 [0b10#2, 0b10#2, 0b10#2, 0b10#2, 0b10#2] ∧
  PutsSymbols .char1 [0b01#2, 0b10#2, 0b10#2, 0b10#2, 0b10#2] ∧
  PutsSymbols .char2 [0b01#2, 0b01#2, 0b10#2, 0b10#2, 0b10#2] ∧
  PutsSymbols .char3 [0b01#2, 0b01#2, 0b01#2, 0b10#2, 0b10#2] ∧
  PutsSymbols .char4 [0b01#2, 0b01#2, 0b01#2, 0b01#2, 0b10#2] ∧
  PutsSymbols .char5 [0b01#2, 0b01#2, 0b01#2, 0b01#2, 0b01#2] ∧
  PutsSymbols .char6 [0b10#2, 0b01#2, 0b01#2, 0b01#2, 0b01#2] ∧
  PutsSymbols .char7 [0b10#2, 0b10#2, 0b01#2, 0b01#2, 0b01#2] ∧
  PutsSymbols .char8 [0b10#2, 0b10#2, 0b10#2, 0b01#2, 0b01#2] ∧
  PutsSymbols .char9 [0b10#2, 0b10#2, 0b10#2, 0b10#2, 0b01#2]

/-- R155, R156 for each row; that a row is an instruction of ENC is the model's reading (log 8). -/
def Obligations.MarksPutTheirSymbolsInEnc : Prop :=
  PutsSymbols .charColon [0b10#2, 0b10#2, 0b10#2, 0b01#2, 0b01#2, 0b01#2] ∧
  PutsSymbols .charPeriod [0b01#2, 0b10#2, 0b01#2, 0b10#2, 0b01#2, 0b10#2] ∧
  PutsSymbols .charQuestion [0b01#2, 0b01#2, 0b10#2, 0b10#2, 0b01#2, 0b01#2] ∧
  PutsSymbols .charSlash [0b10#2, 0b01#2, 0b01#2, 0b10#2, 0b01#2] ∧
  PutsSymbols .charHyphen [0b10#2, 0b01#2, 0b01#2, 0b01#2, 0b01#2, 0b10#2] ∧
  PutsSymbols .charLparen [0b10#2, 0b01#2, 0b10#2, 0b10#2, 0b01#2] ∧
  PutsSymbols .charRparen [0b10#2, 0b01#2, 0b10#2, 0b10#2, 0b01#2, 0b10#2] ∧
  PutsSymbols .charSpace []

/-- R176, R178 for each row; that a row is an instruction of DEC is the model's reading (log 8). -/
def Obligations.LettersEmitTheirCodeInDec : Prop :=
  EmitsCode .charA 0x41#8 ∧
  EmitsCode .charB 0x42#8 ∧
  EmitsCode .charC 0x43#8 ∧
  EmitsCode .charD 0x44#8 ∧
  EmitsCode .charE 0x45#8 ∧
  EmitsCode .charF 0x46#8 ∧
  EmitsCode .charG 0x47#8 ∧
  EmitsCode .charH 0x48#8 ∧
  EmitsCode .charI 0x49#8 ∧
  EmitsCode .charJ 0x4A#8 ∧
  EmitsCode .charK 0x4B#8 ∧
  EmitsCode .charL 0x4C#8 ∧
  EmitsCode .charM 0x4D#8 ∧
  EmitsCode .charN 0x4E#8 ∧
  EmitsCode .charO 0x4F#8 ∧
  EmitsCode .charP 0x50#8 ∧
  EmitsCode .charQ 0x51#8 ∧
  EmitsCode .charR 0x52#8 ∧
  EmitsCode .charS 0x53#8 ∧
  EmitsCode .charT 0x54#8 ∧
  EmitsCode .charU 0x55#8 ∧
  EmitsCode .charV 0x56#8 ∧
  EmitsCode .charW 0x57#8 ∧
  EmitsCode .charX 0x58#8 ∧
  EmitsCode .charY 0x59#8 ∧
  EmitsCode .charZ 0x5A#8

/-- R176, R178 for each row; that a row is an instruction of DEC is the model's reading (log 8). -/
def Obligations.DigitsEmitTheirCodeInDec : Prop :=
  EmitsCode .char0 0x30#8 ∧
  EmitsCode .char1 0x31#8 ∧
  EmitsCode .char2 0x32#8 ∧
  EmitsCode .char3 0x33#8 ∧
  EmitsCode .char4 0x34#8 ∧
  EmitsCode .char5 0x35#8 ∧
  EmitsCode .char6 0x36#8 ∧
  EmitsCode .char7 0x37#8 ∧
  EmitsCode .char8 0x38#8 ∧
  EmitsCode .char9 0x39#8

/-- R176, R178 for each row; that a row is an instruction of DEC is the model's reading (log 8). -/
def Obligations.MarksEmitTheirCodeInDec : Prop :=
  EmitsCode .charColon 0x3A#8 ∧
  EmitsCode .charPeriod 0x2E#8 ∧
  EmitsCode .charQuestion 0x3F#8 ∧
  EmitsCode .charSlash 0x2F#8 ∧
  EmitsCode .charHyphen 0x2D#8 ∧
  EmitsCode .charLparen 0x28#8 ∧
  EmitsCode .charRparen 0x29#8 ∧
  EmitsCode .charSpace 0x20#8

/-- R154: PUT, with the append at cursor 0. -/
def Obligations.PutAppendsThenWritesTheSlot : Prop :=
  (∀ (v : Sym) (s : State), s.enc.cur = 0#2 →
    exec (.put v) s = .next { s with enc := { s.enc with out := s.enc.out ++ [v.setWidth 8], cur := 1#2 } }) ∧
  (∀ (v : Sym) (s : State) (pre : Buffer) (b : Byte), s.enc.cur ≠ 0#2 → s.enc.out = pre ++ [b] →
    exec (.put v) s = .next { s with enc := { s.enc with
      out := pre ++ [b ||| (v.setWidth 8 <<< (2 * s.enc.cur.toNat))], cur := s.enc.cur + 1#2 } })

/-- R156 (and R201): ENC_CHAR. -/
def Obligations.EncCharPutsOrRaises : Prop :=
  ∀ (s : State) (raw : Byte), s.enc.status = .run → s.enc.text[s.enc.idx]? = some raw →
    (∀ q, fwd (foldCode raw) = some q → (s.enc.cur = 0#2 ∨ s.enc.out ≠ []) →
      ∃ e, s.enc.puts (q ++ [0b00#2]) = some e ∧
        exec .encChar s = .next { s with enc := { s.enc with idx := s.enc.idx + 1, cur := e.cur, out := e.out } }) ∧
    (fwd (foldCode raw) = none →
      exec .encChar s = .next { s with enc := { s.enc with status := .fault { index := s.enc.idx, code := raw } } })

/-- R157: ENC_DONE. -/
def Obligations.EncDoneEndsThePass : Prop :=
  ∀ s : State, s.enc.status = .run → s.enc.idx = s.enc.text.length →
    exec .encDone s = .next { s with enc := { s.enc with status := .done } }

/-- R158, the closed form of ENCODE, with the length law of R159. -/
def Obligations.EncodeGivesTheClosedForm : Prop :=
  ∀ (text : Buffer) (q : List Sym) (s : State), streamOf text = some q →
    ∃ bytes : Buffer,
      exec (.encode text) s = .next { s with
        enc := { text := text, idx := text.length, cur := BitVec.ofNat 2 q.length, out := bytes, status := .done },
        ret := .encoded (.ok bytes) } ∧
      bytes.length = bytesFor q.length ∧
      ∀ j, j < bytes.length →
        bytes[j]? = some (byteOf (symAt q (4 * j)) (symAt q (4 * j + 1)) (symAt q (4 * j + 2)) (symAt q (4 * j + 3)))

/-- R205 and R158 for ENC: the fault is the first offending character's. -/
def Obligations.EncodeFaultsAtTheFirstUnsupported : Prop :=
  ∀ (pre rest : Buffer) (c : Byte) (s : State), (∀ x ∈ pre, supported x = true) → supported c = false →
    ∃ e : Enc, exec (.encode (pre ++ c :: rest)) s =
        .next { s with enc := e, ret := .encoded (.fault { index := pre.length, code := c }) } ∧
      e.status = .fault { index := pre.length, code := c } ∧ e.idx = pre.length ∧ e.text = pre ++ c :: rest

/-- R173: PLACE for k in 0..7. -/
def Obligations.PlaceOrsTheSymbolIntoThePosition : Prop :=
  ∀ (acc : CodeWord) (k : BitVec 4) (v : Sym) (s : State), k.toNat < 8 → ∃ w : CodeWord,
    exec (.place acc k v) s = .next { s with ret := .codeWord w } ∧
    w = acc ||| (v.setWidth 16 <<< (14 - 2 * k.toNat)) ∧
    positionOf w k.toNat = positionOf acc k.toNat ||| v ∧
    (∀ j, j < 8 → j ≠ k.toNat → positionOf w j = positionOf acc j) ∧ (v = 0b00#2 → w = acc)

/-- R175 and the first line of R185. -/
def Obligations.TerminatesDependsOnTheSpaceRule : Prop :=
  ∀ (v : Sym) (acc : CodeWord) (s : State),
    (s.spaceRule = .absorb →
      exec (.terminates v acc) s = .next { s with ret := .truth (decide (v = 0b00#2 ∧ acc ≠ 0x0000#16)) }) ∧
    (s.spaceRule = .immediate →
      exec (.terminates v acc) s = .next { s with ret := .truth (decide (v = 0b00#2)) })

/-- R180 (a), (b), (c) for the four symbol values; that a value is an instruction of DEC which does not look at the slot is the
model's reading (log 9). -/
def Obligations.SymbolsAccumulateSaturateOrOverflow : Prop :=
  Accumulates .symEnd 0b00#2 ∧ Accumulates .symDit 0b01#2 ∧ Accumulates .symDah 0b10#2 ∧ Accumulates .symReserved 0b11#2

/-- R178 EMIT and R179 NO_MATCH; that SYM_END is an instruction of DEC which does not look at the slot is the model's reading (log 9). -/
def Obligations.SymEndEmitsOrRaisesNoMatch : Prop :=
  ∀ s : State, s.dec.status = .run → s.dec.ptr < s.dec.inp.length →
    terminatesUnder s.spaceRule 0b00#2 s.dec.acc = true →
    (∀ ch, rev s.dec.acc = some ch →
      exec .symEnd s =
        .next { s with dec := { s.dec.pastSymbol with out := s.dec.out ++ [ch], acc := 0x0000#16, k := 0#4 } } ∧
      (s.spaceRule = .absorb → ch ≠ 0x20#8)) ∧
    (rev s.dec.acc = none →
      exec .symEnd s = .next { s with dec := { s.dec with
        status := .fault { cause := .noMatch, word := s.dec.acc, index := 4 * s.dec.ptr + s.dec.cur.toNat } } })

/-- R176, R177: DEC_SYM is the fetch part and then what the symbol read does. -/
def Obligations.DecSymRunsTheSymbolInTheSlot : Prop :=
  ∀ (s : State) (b : Byte), s.dec.status = .run → s.dec.inp[s.dec.ptr]? = some b →
    (∃ t, exec .decSym s = .next t) ∧
    (slotOf b s.dec.cur.toNat = 0b00#2 → exec .decSym s = exec .symEnd s) ∧
    (slotOf b s.dec.cur.toNat = 0b01#2 → exec .decSym s = exec .symDit s) ∧
    (slotOf b s.dec.cur.toNat = 0b10#2 → exec .decSym s = exec .symDah s) ∧
    (slotOf b s.dec.cur.toNat = 0b11#2 → exec .decSym s = exec .symReserved s)

/-- R181. The case k = 0 is taken first; with the invariant R23 (a) it excludes the case of R183. -/
def Obligations.DecEosAtABoundaryEndsThePass : Prop :=
  ∀ s : State, s.dec.status = .run → s.dec.ptr = s.dec.inp.length → s.dec.k = 0#4 →
    exec .decEos s = .next { s with dec := { s.dec with status := .done } }

/-- R182. -/
def Obligations.DecEosInZerosAppendsOneSpace : Prop :=
  ∀ s : State, s.dec.status = .run → s.dec.ptr = s.dec.inp.length → 0 < s.dec.k.toNat → s.dec.acc = 0x0000#16 →
    exec .decEos s = .next { s with dec := { s.dec with out := s.dec.out ++ [0x20#8], status := .done } }

/-- R183, in states that keep R23 (a), which MachineInvariantIsKept states of every run. -/
def Obligations.DecEosInACharacterRaisesTruncated : Prop :=
  ∀ s : State, s.dec.status = .run → s.dec.ptr = s.dec.inp.length → s.dec.acc ≠ 0x0000#16 →
    (s.dec.k = 0#4 → s.dec.acc = 0x0000#16) →
    exec .decEos s = .next { s with dec := { s.dec with
      status := .fault { cause := .truncated, word := s.dec.acc, index := 4 * s.dec.inp.length } } }

/-- R170, R184: DEC is total and a function of the buffer (and of the parameter SPACE_RULE); R206: nothing of an earlier pass is kept. -/
def Obligations.DecodeIsTotal : Prop :=
  (∀ (bytes : Buffer) (s : State), ∃ d : Dec, d.inp = bytes ∧
    ((d.status = .done ∧ d.ptr = bytes.length ∧
        exec (.decode bytes) s = .next { s with dec := d, ret := .decoded (.ok d.out) }) ∨
      ∃ info, d.status = .fault info ∧
        exec (.decode bytes) s = .next { s with dec := d, ret := .decoded (.fault info) })) ∧
  ∀ (bytes : Buffer) (s s' t t' : State), s.spaceRule = s'.spaceRule →
    exec (.decode bytes) s = .next t → exec (.decode bytes) s' = .next t' → t.dec = t'.dec ∧ t.ret = t'.ret

/-- R184: the loop; R205, R206: the first fault of the stream ends the pass. -/
def Obligations.DecodeIsTheIterationOfItsSteps : Prop :=
  (∀ (bytes : Buffer) (s : State), ∃ (n : Nat) (t : State), n ≤ 4 * bytes.length + 1 ∧
    DecodeRun n
      { s with dec := { inp := bytes, ptr := 0, cur := 0#2, acc := 0x0000#16, k := 0#4, out := [], status := .run } } t ∧
    ((t.dec.status = .done ∧ exec (.decode bytes) s = .next { t with ret := .decoded (.ok t.dec.out) }) ∨
      ∃ info, t.dec.status = .fault info ∧ exec (.decode bytes) s = .next { t with ret := .decoded (.fault info) })) ∧
  (∀ (bytes : Buffer) (s t : State) (info : MalformedCode), exec (.decode bytes) s = .next t →
    t.dec.status = .fault info →
    (info.cause ≠ .truncated → info.index < 4 * bytes.length) ∧
    (info.cause = .truncated → info.index = 4 * bytes.length)) ∧
  ∀ (pre rest : Buffer) (s t : State) (info : MalformedCode), exec (.decode pre) s = .next t →
    t.dec.status = .fault info → info.cause ≠ .truncated →
    ∃ u, exec (.decode (pre ++ rest)) s = .next u ∧ u.dec.status = .fault info ∧ u.ret = .decoded (.fault info)

/-- R187. -/
def Obligations.RoundTripUnderImmediate : Prop :=
  ∀ (text : Buffer) (q : List Sym) (s : State), s.spaceRule = .immediate → streamOf text = some q →
    ∃ (bytes : Buffer) (t u : State),
      exec (.encode text) s = .next t ∧ t.ret = .encoded (.ok bytes) ∧
      exec (.decode bytes) t = .next u ∧
      u.ret = .decoded (.ok (upperText text ++ spaces (4 * bytesFor q.length - q.length)))

/-- R186, case by case. -/
def Obligations.RoundTripUnderAbsorb : Prop :=
  ∀ (text t : Buffer) (qt : List Sym) (n : Nat) (s : State), s.spaceRule = .absorb →
    (∀ c ∈ text, supported c = true) → upperText text = t ++ spaces n → t.getLast? ≠ some 0x20#8 →
    streamOf t = some qt →
    ∃ (bytes : Buffer) (u v : State) (res : PassResult MalformedCode),
      exec (.encode text) s = .next u ∧ u.ret = .encoded (.ok bytes) ∧
      exec (.decode bytes) u = .next v ∧ v.ret = .decoded res ∧
      (0x20#8 ∈ t → ∃ info, res = .fault info) ∧
      (0x20#8 ∉ t → n = 0 → qt.length % 4 = 0 → res = .ok t) ∧
      (0x20#8 ∉ t → n = 0 → qt.length % 4 ≠ 0 → res = .ok (t ++ [0x20#8])) ∧
      (0x20#8 ∉ t → 1 ≤ n → res = .ok (t ++ [0x20#8]))

/-- R188, as a statement about DEC's symbol step repeated. -/
def Obligations.SpaceBeforeACharacterDoesNotDecode : Prop :=
  ∀ (d : Dec) (m : Nat) (q : List Sym), d.status = .run → d.acc = 0x0000#16 → d.k = 0#4 → 1 ≤ m → q ≠ [] →
    (∀ x ∈ q, x ≠ 0b00#2) →
    (m + q.length ≤ 8 →
      ((List.replicate m 0b00#2 ++ q ++ [0b00#2]).foldl (Dec.onSymbol .absorb) d).status =
        .fault { cause := .noMatch, word := codeWordOf q >>> (2 * m), index := d.symbolIndex + m + q.length }) ∧
    (8 < m + q.length →
      ∃ w, ((List.replicate m 0b00#2 ++ q.take (8 - m + 1)).foldl (Dec.onSymbol .absorb) d).status =
        .fault { cause := .overflow, word := w, index := d.symbolIndex + max m 8 })

/-- R189: no buffer that contains 11 decodes without fault. -/
def Obligations.ReservedValueNeverDecodes : Prop :=
  ∀ (bytes : Buffer) (s : State), 0b11#2 ∈ slotsOf bytes →
    ∃ (t : State) (info : MalformedCode), exec (.decode bytes) s = .next t ∧ t.ret = .decoded (.fault info)

/-- R13, R15, R17, R22 to R25 as one invariant that every step keeps. -/
def Obligations.MachineInvariantIsKept : Prop :=
  ∀ s t : State, s.Inv → step s = .next t → t.Inv

/-- The invariant holds at reset (R29, R220). -/
def Obligations.ResetHasTheInvariant : Prop :=
  State.reset.Inv

/-- R220 with the values of R29; SPACE_RULE is R5's. -/
def Obligations.ResetIsTheStartOfEmptyPasses : Prop :=
  State.reset.enc = { text := [], idx := 0, cur := 0#2, out := [], status := .run } ∧
  State.reset.dec = { inp := [], ptr := 0, cur := 0#2, acc := 0x0000#16, k := 0#4, out := [], status := .run } ∧
  State.reset.spaceRule = .absorb

/-- Decode and encode agree on every instruction that has bits; R64 for those that have none. The rows as instructions and the formats
are the model's reading (logs 8 to 11). -/
def Obligations.DecodeReadsWhatEncodeWrites : Prop :=
  (∀ (i : Instr) (f : Format) (w : Nat), i.wellFormed = true → encode i = some (f, w) → decode f w = .instr i) ∧
  (∀ i : Instr, encode i = none ↔
    (∃ c, i = .shift c) ∨ (∃ c, i = .advance c) ∨ (∃ v b c, i = .write v b c) ∨ (∃ b c, i = .read b c) ∨
    (∃ c, i = .fold c) ∨ (∃ c, i = .fwd c) ∨ (∃ v, i = .put v) ∨ i = .encChar ∨ i = .encDone ∨
    (∃ x, i = .encode x) ∨ (∃ a k v, i = .place a k v) ∨ (∃ w, i = .rev w) ∨ (∃ v a, i = .terminates v a) ∨
    i = .decSym ∨ i = .decEos ∨ (∃ x, i = .decode x))

/-- The other direction of the round trip; FOLD is the one many-to-one step (R151). The formats are the model's reading
(log 11). -/
def Obligations.EncodeGivesBackTheDecodedWord : Prop :=
  ∀ (f : Format) (w : Nat) (i : Instr), decode f w = .instr i →
    (f ≠ .charCode8 → encode i = some (f, w)) ∧
    (f = .charCode8 → encode i = some (f, (foldCode (BitVec.ofNat 8 w)).toNat))

/-- A few words of R51 to R53, R56, R58 to R62 decoded; that they decode to instructions of a unit, and that what has no row is
rejected by decode, is the model's reading (logs 8 to 11). -/
def Obligations.SampleWordsDecode : Prop :=
  decode .codeWord16 0b0110000000000000 = .instr (.charA .dec) ∧
  decode .codeWord16 0b1010101010000000 = .instr (.char0 .dec) ∧
  decode .codeWord16 0b1001101001100000 = .instr (.charRparen .dec) ∧
  decode .codeWord16 0b0000000000000000 = .instr (.charSpace .dec) ∧
  decode .symbol2 0b00 = .instr .symEnd ∧ decode .symbol2 0b01 = .instr .symDit ∧
  decode .symbol2 0b10 = .instr .symDah ∧ decode .symbol2 0b11 = .instr .symReserved ∧
  decode .byte4x2 0b11100100 = .instr (.byte 0b00#2 0b01#2 0b10#2 0b11#2) ∧
  decode .charCode8 0x41 = .instr (.charA .enc) ∧ decode .charCode8 0x61 = .instr (.charA .enc) ∧
  decode .codeWord16 0x6600 = .reject (.unmatchedCodeWord 0x6600#16) ∧
  decode .charCode8 0x21 = .reject (.unsupportedCode 0x21#8)

/-- How per-instruction statements reach a run. Which unit moves and when a call (R211, R222) is taken are the model's choices (logs 3,
4), the rows as instructions of the units its reading (logs 8, 9, 11), and the stop noStepEnabled its form of "no step is
enabled" (R17, R25, R223; log 13). -/
def Obligations.StepRunsTheDecodedInstruction : Prop :=
  (∀ (s : State) (c : Byte) (i : Instr), s.mover = some .enc → s.enc.text[s.enc.idx]? = some c →
    decode .charCode8 c.toNat = .instr i → step s = exec i s) ∧
  (∀ (s : State) (b : Byte) (i : Instr), s.mover = some .dec → s.dec.inp[s.dec.ptr]? = some b →
    terminatesUnder s.spaceRule (slotOf b s.dec.cur.toNat) s.dec.acc = false →
    decode .symbol2 (slotOf b s.dec.cur.toNat).toNat = .instr i → step s = exec i s) ∧
  (∀ (s : State) (b : Byte) (i : Instr), s.mover = some .dec → s.dec.inp[s.dec.ptr]? = some b →
    terminatesUnder s.spaceRule (slotOf b s.dec.cur.toNat) s.dec.acc = true →
    decode .codeWord16 s.dec.acc.toNat = .instr i → step s = exec i s) ∧
  (∀ (s : State) (text : Buffer) (rest : List Call), s.mover = none → s.calls = .encode text :: rest →
    step s = exec (.encode text) { s with calls := rest }) ∧
  (∀ (s : State) (bytes : Buffer) (rest : List Call), s.mover = none → s.calls = .decode bytes :: rest →
    step s = exec (.decode bytes) { s with calls := rest }) ∧
  (∀ s : State, s.mover = none → s.calls = [] → step s = .fault .noStepEnabled)

/-- R158 and R172: exactly one step is enabled in RUN, and the machine's step is that one. -/
def Obligations.StepIsTheEnabledStepOfTheSpec : Prop :=
  ∀ s : State,
    (s.mover = some .enc → s.enc.idx < s.enc.text.length → step s = exec .encChar s) ∧
    (s.mover = some .enc → s.enc.idx = s.enc.text.length → step s = exec .encDone s) ∧
    (s.mover = some .dec → s.dec.ptr < s.dec.inp.length → step s = exec .decSym s) ∧
    (s.mover = some .dec → s.dec.ptr = s.dec.inp.length → step s = exec .decEos s)

/-- R223: a pass in RUN always has an enabled step; no stuck state. -/
def Obligations.RunningUnitIsNeverStuck : Prop :=
  ∀ s : State, s.Inv → (s.enc.status = .run ∨ s.dec.status = .run) → SafeStep s

/-- R27: the two sequencing pointers. -/
def Obligations.PointersAdvanceByOne : Prop :=
  (∀ s t : State, exec .encChar s = .next t →
    t.enc.idx = s.enc.idx + 1 ∨ ∃ info, t = { s with enc := { s.enc with status := .fault info } }) ∧
  (∀ s t : State, exec .decSym s = .next t →
    4 * t.dec.ptr + t.dec.cur.toNat = 4 * s.dec.ptr + s.dec.cur.toNat + 1 ∨
      ∃ info, t = { s with dec := { s.dec with status := .fault info } }) ∧
  (∀ s t : State, exec .encDone s = .next t → t.enc.idx = s.enc.idx) ∧
  (∀ s t : State, exec .decEos s = .next t → t.dec.ptr = s.dec.ptr ∧ t.dec.cur = s.dec.cur)

/-- R10, R12, R18, R28, R70: what no instruction changes. -/
def Obligations.EveryInstructionWritesOneUnitOnly : Prop :=
  ∀ (i : Instr) (s t : State), exec i s = .next t →
    (unitOf i ≠ some .enc → t.enc = s.enc) ∧ (unitOf i ≠ some .dec → t.dec = s.dec) ∧
    t.spaceRule = s.spaceRule ∧ t.sel = s.sel ∧ t.calls = s.calls ∧
    ((∀ x, i ≠ .encode x) → t.enc.text = s.enc.text) ∧ ((∀ x, i ≠ .decode x) → t.dec.inp = s.dec.inp) ∧
    (unitOf i ≠ none → (∀ x, i ≠ .encode x) → (∀ x, i ≠ .decode x) → t.ret = s.ret)

/-- R10, R213: no pass can observe another. -/
def Obligations.UnitsDoNotObserveEachOther : Prop :=
  (∀ (i : Instr) (s t : State) (d : Dec), unitOf i ≠ some .dec → exec i s = .next t →
    exec i { s with dec := d } = .next { t with dec := d }) ∧
  (∀ (i : Instr) (s t : State) (e : Enc), unitOf i ≠ some .enc → exec i s = .next t →
    exec i { s with enc := e } = .next { t with enc := e })

/-- R17, R25: DONE and FAULT are final; R206, R211: a new pass is the only way on. The stop notEnabled is the model's form (log 13), the
rows as instructions of the units its reading (logs 8, 9). -/
def Obligations.EndedPassHasNoStep : Prop :=
  (∀ s : State, s.enc.status ≠ .run →
    exec .encChar s = .fault .notEnabled ∧ exec .encDone s = .fault .notEnabled ∧
    ∀ r ∈ instrRows, exec (r.2 .enc) s = .fault .notEnabled) ∧
  (∀ s : State, s.dec.status ≠ .run →
    exec .decSym s = .fault .notEnabled ∧ exec .decEos s = .fault .notEnabled ∧
    exec .symEnd s = .fault .notEnabled ∧ exec .symDit s = .fault .notEnabled ∧
    exec .symDah s = .fault .notEnabled ∧ exec .symReserved s = .fault .notEnabled ∧
    ∀ r ∈ instrRows, exec (r.2 .dec) s = .fault .notEnabled) ∧
  (∀ s t : State, s.enc.status ≠ .run → step s = .next t → t.enc = s.enc ∨
    ∃ text rest, s.calls = .encode text :: rest ∧ step s = exec (.encode text) { s with calls := rest }) ∧
  (∀ s t : State, s.dec.status ≠ .run → step s = .next t → t.dec = s.dec ∨
    ∃ bytes rest, s.calls = .decode bytes :: rest ∧ step s = exec (.decode bytes) { s with calls := rest })

/-- R204: fault entry. -/
def Obligations.RaisingChangesTheStatusOnly : Prop :=
  (∀ (i : Instr) (s t : State) (info : UnsupportedCharacter), (∀ x, i ≠ .encode x) → s.enc.status = .run →
    exec i s = .next t → t.enc.status = .fault info →
    t = { s with enc := { s.enc with status := .fault info } }) ∧
  (∀ (i : Instr) (s t : State) (info : MalformedCode), (∀ x, i ≠ .decode x) → s.dec.status = .run →
    exec i s = .next t → t.dec.status = .fault info →
    t = { s with dec := { s.dec with status := .fault info } })

/-- R173 gives PLACE the operand k in 0..7; the refusal outside it is the model's choice (log 23). -/
def Obligations.OperandOutsidePlaceIsRefused : Prop :=
  ∀ (acc : CodeWord) (k : BitVec 4) (v : Sym) (s : State), 8 ≤ k.toNat →
    exec (.place acc k v) s = .refused .operandOutOfRange

/-- R63: "with the terminator included every row is distinct and none is a prefix of another". -/
def Obligations.StreamFormsArePrefixFree : Prop :=
  ∀ r ∈ table, ∀ r' ∈ table, (r.seq ++ [Config.symEnd]) <+: (r'.seq ++ [Config.symEnd]) → r = r'

/-- R62, the families of unmatched values. -/
def Obligations.UnmatchedCodeWordsHaveNoRow : Prop :=
  ∀ (w : CodeWord) (s : State),
    ((∃ j, j < 8 ∧ positionOf w j = 0b11#2) ∨ (w ≠ 0x0000#16 ∧ positionOf w 0 = 0b00#2) ∨
      positionOf w 6 ≠ 0b00#2 ∨ positionOf w 7 ≠ 0b00#2 ∨
      (∃ i j k, i < j ∧ j < k ∧ k < 8 ∧ positionOf w i ≠ 0b00#2 ∧ positionOf w j = 0b00#2 ∧ positionOf w k ≠ 0b00#2)) →
    exec (.rev w) s = .next { s with ret := .lookUp none }

/-- R161: where ENCODE is injective. -/
def Obligations.EncodeIsInjectiveWithoutPadding : Prop :=
  ∀ (x y bytes : Buffer) (qx qy : List Sym) (s t u : State), streamOf x = some qx → streamOf y = some qy →
    qx.length % 4 = 0 → qy.length % 4 = 0 →
    exec (.encode x) s = .next t → t.ret = .encoded (.ok bytes) →
    exec (.encode y) s = .next u → u.ret = .encoded (.ok bytes) → upperText x = upperText y
end

