-- ==== Sys2Proof/Laws/State.lean ====
section
/-! SUPPORT. One lemma per field per update of the state, so that no proof unfolds a record update. -/

namespace Sys2Proof.Machine

/-! ## The machine -/

@[simp] theorem State.setDec_enc (s : State) (d : Dec) : (s.setDec d).enc = s.enc := rfl
@[simp] theorem State.setDec_dec (s : State) (d : Dec) : (s.setDec d).dec = d := rfl
@[simp] theorem State.setDec_spaceRule (s : State) (d : Dec) : (s.setDec d).spaceRule = s.spaceRule := rfl
@[simp] theorem State.setDec_sel (s : State) (d : Dec) : (s.setDec d).sel = s.sel := rfl
@[simp] theorem State.setDec_calls (s : State) (d : Dec) : (s.setDec d).calls = s.calls := rfl
@[simp] theorem State.setDec_ret (s : State) (d : Dec) : (s.setDec d).ret = s.ret := rfl

@[simp] theorem State.returning_enc (s : State) (v : Returned) : (s.returning v).enc = s.enc := rfl
@[simp] theorem State.returning_dec (s : State) (v : Returned) : (s.returning v).dec = s.dec := rfl
@[simp] theorem State.returning_spaceRule (s : State) (v : Returned) : (s.returning v).spaceRule = s.spaceRule := rfl
@[simp] theorem State.returning_sel (s : State) (v : Returned) : (s.returning v).sel = s.sel := rfl
@[simp] theorem State.returning_calls (s : State) (v : Returned) : (s.returning v).calls = s.calls := rfl
@[simp] theorem State.returning_ret (s : State) (v : Returned) : (s.returning v).ret = v := rfl

/-! ## ENC -/

@[simp] theorem Enc.raise_text (e : Enc) (i : UnsupportedCharacter) : (e.raise i).text = e.text := rfl
@[simp] theorem Enc.raise_idx (e : Enc) (i : UnsupportedCharacter) : (e.raise i).idx = e.idx := rfl
@[simp] theorem Enc.raise_cur (e : Enc) (i : UnsupportedCharacter) : (e.raise i).cur = e.cur := rfl
@[simp] theorem Enc.raise_out (e : Enc) (i : UnsupportedCharacter) : (e.raise i).out = e.out := rfl
@[simp] theorem Enc.raise_status (e : Enc) (i : UnsupportedCharacter) : (e.raise i).status = .fault i := rfl

@[simp] theorem Enc.finish_text (e : Enc) : e.finish.text = e.text := rfl
@[simp] theorem Enc.finish_idx (e : Enc) : e.finish.idx = e.idx := rfl
@[simp] theorem Enc.finish_cur (e : Enc) : e.finish.cur = e.cur := rfl
@[simp] theorem Enc.finish_out (e : Enc) : e.finish.out = e.out := rfl
@[simp] theorem Enc.finish_status (e : Enc) : e.finish.status = .done := rfl

@[simp] theorem Enc.start_text (x : Buffer) : (Enc.start x).text = x := rfl
@[simp] theorem Enc.start_idx (x : Buffer) : (Enc.start x).idx = 0 := rfl
@[simp] theorem Enc.start_cur (x : Buffer) : (Enc.start x).cur = 0#2 := rfl
@[simp] theorem Enc.start_out (x : Buffer) : (Enc.start x).out = [] := rfl
@[simp] theorem Enc.start_status (x : Buffer) : (Enc.start x).status = .run := rfl

/-! ## DEC -/

@[simp] theorem Dec.raise_inp (d : Dec) (i : MalformedCode) : (d.raise i).inp = d.inp := rfl
@[simp] theorem Dec.raise_ptr (d : Dec) (i : MalformedCode) : (d.raise i).ptr = d.ptr := rfl
@[simp] theorem Dec.raise_cur (d : Dec) (i : MalformedCode) : (d.raise i).cur = d.cur := rfl
@[simp] theorem Dec.raise_acc (d : Dec) (i : MalformedCode) : (d.raise i).acc = d.acc := rfl
@[simp] theorem Dec.raise_k (d : Dec) (i : MalformedCode) : (d.raise i).k = d.k := rfl
@[simp] theorem Dec.raise_out (d : Dec) (i : MalformedCode) : (d.raise i).out = d.out := rfl
@[simp] theorem Dec.raise_status (d : Dec) (i : MalformedCode) : (d.raise i).status = .fault i := rfl

@[simp] theorem Dec.emit_inp (d : Dec) (c : Byte) : (d.emit c).inp = d.inp := rfl
@[simp] theorem Dec.emit_ptr (d : Dec) (c : Byte) : (d.emit c).ptr = d.ptr := rfl
@[simp] theorem Dec.emit_cur (d : Dec) (c : Byte) : (d.emit c).cur = d.cur := rfl
@[simp] theorem Dec.emit_acc (d : Dec) (c : Byte) : (d.emit c).acc = 0#16 := rfl
@[simp] theorem Dec.emit_k (d : Dec) (c : Byte) : (d.emit c).k = 0#4 := rfl
@[simp] theorem Dec.emit_out (d : Dec) (c : Byte) : (d.emit c).out = d.out ++ [c] := rfl
@[simp] theorem Dec.emit_status (d : Dec) (c : Byte) : (d.emit c).status = d.status := rfl

@[simp] theorem Dec.advance_inp (d : Dec) : d.advance.inp = d.inp := rfl
@[simp] theorem Dec.advance_cur (d : Dec) : d.advance.cur = nextCursor d.cur := rfl
@[simp] theorem Dec.advance_acc (d : Dec) : d.advance.acc = d.acc := rfl
@[simp] theorem Dec.advance_k (d : Dec) : d.advance.k = d.k := rfl
@[simp] theorem Dec.advance_out (d : Dec) : d.advance.out = d.out := rfl
@[simp] theorem Dec.advance_status (d : Dec) : d.advance.status = d.status := rfl

@[simp] theorem Dec.start_inp (x : Buffer) : (Dec.start x).inp = x := rfl
@[simp] theorem Dec.start_ptr (x : Buffer) : (Dec.start x).ptr = 0 := rfl
@[simp] theorem Dec.start_cur (x : Buffer) : (Dec.start x).cur = 0#2 := rfl
@[simp] theorem Dec.start_acc (x : Buffer) : (Dec.start x).acc = 0#16 := rfl
@[simp] theorem Dec.start_k (x : Buffer) : (Dec.start x).k = 0#4 := rfl
@[simp] theorem Dec.start_out (x : Buffer) : (Dec.start x).out = [] := rfl
@[simp] theorem Dec.start_status (x : Buffer) : (Dec.start x).status = .run := rfl

end Sys2Proof.Machine
end

