-- ==== Sys2Proof/Laws/Ops.lean ====
section
/-! SUPPORT. What each shared operation can do, said once: the lemmas to cite instead of unfolding the operation. -/

namespace Sys2Proof.Machine

open Config

/-! ## Buffers -/

theorem memRead_eq_some {buf : Buffer} {i : Nat} {v : Byte} :
    memRead buf i = some v ↔ ∃ h : i < buf.length, buf[i] = v := List.getElem?_eq_some_iff

theorem memRead_eq_none {buf : Buffer} {i : Nat} : memRead buf i = none ↔ buf.length ≤ i := List.getElem?_eq_none_iff

/-- A write answers inside the buffer only, and keeps its length. -/
theorem memWrite_eq_some {buf buf' : Buffer} {i : Nat} {v : Byte} (h : memWrite buf i v = some buf') :
    i < buf.length ∧ buf' = buf.set i v := by
  unfold memWrite at h; split at h
  · exact ⟨‹_›, (Option.some.inj h).symm⟩
  · cases h

/-- Reading back the element written. -/
theorem memRead_after_memWrite_same {buf buf' : Buffer} {i : Nat} {v : Byte} (h : memWrite buf i v = some buf') :
    memRead buf' i = some v := by
  obtain ⟨hi, rfl⟩ := memWrite_eq_some h
  simp [memRead, hi]

/-- A write leaves every other element alone. -/
theorem memRead_after_memWrite_other {buf buf' : Buffer} {i j : Nat} {v : Byte} (h : memWrite buf i v = some buf')
    (hj : j ≠ i) : memRead buf' j = memRead buf j := by
  obtain ⟨_, rfl⟩ := memWrite_eq_some h
  simp [memRead, Ne.symm hj]

/-- An append leaves every element alone. -/
theorem memRead_after_memAppend {buf : Buffer} {j : Nat} (v : Byte) (hj : j < buf.length) :
    memRead (memAppend buf v) j = memRead buf j := by
  simp [memRead, memAppend, List.getElem?_append_left hj]

/-! ## The cursor -/

theorem shiftOf_toNat (c : Cursor) : (shiftOf c).toNat = 2 * c.toNat := by
  revert c; decide

theorem nextCursor_toNat (c : Cursor) : (nextCursor c).toNat = (c.toNat + 1) % 4 := by
  revert c; decide

theorem nextCursor_eq_zero (c : Cursor) : nextCursor c = 0#2 ↔ c = 3#2 := by
  revert c; decide

/-! ## PUT -/

/-- Writing the last byte of a buffer that ends in `b`. -/
theorem memWrite_last (pre : Buffer) (b v : Byte) :
    memWrite (pre ++ [b]) ((pre ++ [b]).length - 1) v = some (pre ++ [v]) := by
  simp [memWrite]

theorem memRead_last (pre : Buffer) (b : Byte) : memRead (pre ++ [b]) ((pre ++ [b]).length - 1) = some b := by
  simp [memRead]

/-- PUT at cursor 0 appends the byte that holds the symbol in slot 0 (R154). -/
theorem Enc.put_at_zero (e : Enc) (v : Sym) (h : e.cur = 0#2) :
    e.put v = some { e with out := e.out ++ [writeSlot v 0x00#8 0#2], cur := 1#2 } := by
  simp only [Enc.put, h, if_true, memAppend, memRead_last, memWrite_last]
  rfl

/-- PUT at another cursor writes into the last byte (R154). -/
theorem Enc.put_at_nonzero (e : Enc) (v : Sym) {pre : Buffer} {b : Byte} (h : e.cur ≠ 0#2) (ho : e.out = pre ++ [b]) :
    e.put v = some { e with out := pre ++ [writeSlot v b e.cur], cur := nextCursor e.cur } := by
  simp only [Enc.put, if_neg h, ho, memRead_last, memWrite_last]

/-- PUT answers exactly where a byte can be indexed. -/
theorem Enc.put_isSome (e : Enc) (v : Sym) (h : e.cur = 0#2 ∨ e.out ≠ []) : ∃ e', e.put v = some e' := by
  by_cases hc : e.cur = 0#2
  · exact ⟨_, e.put_at_zero v hc⟩
  · rcases h with h | h
    · exact absurd h hc
    · obtain ⟨pre, b, ho⟩ : ∃ pre b, e.out = pre ++ [b] :=
        ⟨e.out.dropLast, e.out.getLast h, (List.dropLast_append_getLast h).symm⟩
      exact ⟨_, e.put_at_nonzero v hc ho⟩

/-- Everything PUT can do: it answers with a new output, never empty, and the next cursor. -/
theorem Enc.put_eq_some {e e' : Enc} {v : Sym} (h : e.put v = some e') :
    e' = { e with out := e'.out, cur := nextCursor e.cur } ∧ e'.out ≠ [] ∧
      ((e.cur = 0#2 ∧ e'.out = e.out ++ [writeSlot v 0x00#8 0#2]) ∨
        ∃ pre b, e.cur ≠ 0#2 ∧ e.out = pre ++ [b] ∧ e'.out = pre ++ [writeSlot v b e.cur]) := by
  by_cases hc : e.cur = 0#2
  · rw [e.put_at_zero v hc] at h
    obtain rfl := Option.some.inj h
    refine ⟨?_, by simp, .inl ⟨hc, rfl⟩⟩
    simp only [hc]; rfl
  · by_cases ho : e.out = []
    · simp [Enc.put, hc, ho, memRead] at h
    · have hd : e.out = e.out.dropLast ++ [e.out.getLast ho] := (List.dropLast_append_getLast ho).symm
      rw [e.put_at_nonzero v hc hd] at h
      obtain rfl := Option.some.inj h
      exact ⟨rfl, by simp, .inr ⟨_, _, hc, hd, rfl⟩⟩

/-- PUTs answer exactly where a byte can be indexed. -/
theorem Enc.puts_isSome (q : List Sym) (e : Enc) (h : e.cur = 0#2 ∨ e.out ≠ []) : ∃ e', e.puts q = some e' := by
  induction q generalizing e with
  | nil => exact ⟨e, rfl⟩
  | cons v rest ih =>
    obtain ⟨e₁, h₁⟩ := e.put_isSome v h
    obtain ⟨e₂, h₂⟩ := ih e₁ (.inr (Enc.put_eq_some h₁).2.1)
    exact ⟨e₂, by simp only [Enc.puts, h₁, h₂]⟩

/-- PUTs change the output and the cursor only. -/
theorem Enc.puts_frame {q : List Sym} {e e' : Enc} (h : e.puts q = some e') :
    e' = { e with out := e'.out, cur := e'.cur } := by
  induction q generalizing e with
  | nil => obtain rfl := Option.some.inj h; rfl
  | cons v rest ih =>
    simp only [Enc.puts] at h
    split at h
    · cases h
    · next e₁ h₁ =>
      rw [ih h, (Enc.put_eq_some h₁).1]

/-- PUTs of two lists, one after the other. -/
theorem Enc.puts_append (q q' : List Sym) (e : Enc) : e.puts (q ++ q') = (e.puts q).bind (fun e' => e'.puts q') := by
  induction q generalizing e with
  | nil => rfl
  | cons v rest ih =>
    simp only [List.cons_append, Enc.puts]
    cases e.put v with
    | none => rfl
    | some e₁ => exact ih e₁

/-! ## DEC's pointers -/

theorem Dec.advance_ptr (d : Dec) : d.advance.ptr = if d.cur = 3#2 then d.ptr + 1 else d.ptr := by
  simp only [Dec.advance, nextCursor_eq_zero]

/-- Reading a symbol moves the stream index by one (R27). -/
theorem Dec.advance_symbolIndex (d : Dec) : d.advance.symbolIndex = d.symbolIndex + 1 := by
  have h := d.cur.isLt
  simp only [Dec.symbolIndex, Dec.advance_ptr, Dec.advance_cur, nextCursor_toNat]
  split
  · next hc => simp [hc]; omega
  · next hc =>
    have : d.cur.toNat ≠ 3 := fun hn => hc (BitVec.eq_of_toNat_eq hn)
    omega

/-- READ is the slot that the cursor names (R38, R75). -/
theorem readSlot_eq_slotOf (b : Byte) (c : Cursor) : readSlot b c = slotOf b c.toNat := by
  apply BitVec.eq_of_getLsbD_eq
  intro i hi
  have hc : i = 0 ∨ i = 1 := by omega
  rcases hc with rfl | rfl <;> simp [readSlot, slotOf, shiftOf_toNat]

/-! ## Answers -/

/-- Setting ENC answers a next state exactly where the operation gave one. -/
theorem State.setEnc_eq_next {s t : State} {o : Option Enc} (h : s.setEnc o = .next t) :
    ∃ e, o = some e ∧ t = { s with enc := e } := by
  cases o with
  | none => cases h
  | some e => exact ⟨e, rfl, (Host.Outcome.next.inj h).symm⟩

/-- Everything a character row can do (log 8). -/
theorem runRow_eq_next {r : Row} {u : UnitId} {s t : State} (h : runRow r u s = .next t) :
    (u = .enc ∧ s.enc.charEnabled = true ∧ ∃ e, s.enc.puts (streamForm r.seq) = some e ∧
      t = { s with enc := { e with idx := e.idx + 1 } }) ∨
    (u = .dec ∧ s.dec.symEnabled = true ∧ t = s.setDec (s.dec.advance.emit r.code)) := by
  cases u with
  | enc =>
    simp only [runRow] at h
    split at h
    · next hE =>
      obtain ⟨e, he, rfl⟩ := State.setEnc_eq_next h
      simp only [Enc.putChar] at he
      split at he
      · cases he
      · next e' h' => exact .inl ⟨rfl, hE, e', h', by rw [Option.some.inj he]⟩
    · cases h
  | dec =>
    simp only [runRow] at h
    split at h
    · next hE => exact .inr ⟨rfl, hE, (Host.Outcome.next.inj h).symm⟩
    · cases h

/-- Everything a symbol row can do (log 9). -/
theorem runSymbol_eq_next {v : Sym} {s t : State} (h : runSymbol v s = .next t) :
    s.dec.symEnabled = true ∧ t = s.setDec (s.dec.onSymbol s.spaceRule v) := by
  simp only [runSymbol] at h
  split at h
  · next hE => exact ⟨hE, (Host.Outcome.next.inj h).symm⟩
  · cases h

/-! ## DEC's symbol step -/

/-- Everything a symbol can do to DEC: EMIT, NO_MATCH, ACCUMULATE, SATURATE or OVERFLOW (R177). -/
theorem Dec.onSymbol_cases (r : SpaceRule) (d : Dec) (v : Sym) :
    (terminatesUnder r v d.acc = true ∧ ∃ ch, rev d.acc = some ch ∧ d.onSymbol r v = d.advance.emit ch) ∨
    (terminatesUnder r v d.acc = true ∧ rev d.acc = none ∧
      d.onSymbol r v = d.raise (d.malformed .noMatch d.symbolIndex)) ∨
    (terminatesUnder r v d.acc = false ∧ d.k.toNat < cwSlots ∧
      d.onSymbol r v = { d.advance with acc := placeSym d.acc d.k v, k := d.k + 1#4 }) ∨
    (terminatesUnder r v d.acc = false ∧ ¬ d.k.toNat < cwSlots ∧ v = symEnd ∧ d.onSymbol r v = d.advance) ∨
    (terminatesUnder r v d.acc = false ∧ ¬ d.k.toNat < cwSlots ∧ v ≠ symEnd ∧
      d.onSymbol r v = d.raise (d.malformed .overflow d.symbolIndex)) := by
  unfold Dec.onSymbol
  split
  · next ht =>
    split
    · next ch hr => exact .inl ⟨ht, ch, hr, rfl⟩
    · next hr => exact .inr (.inl ⟨ht, hr, rfl⟩)
  · next ht =>
    have ht := eq_false_of_ne_true ht
    split
    · next hk => exact .inr (.inr (.inl ⟨ht, hk, rfl⟩))
    · next hk =>
      split
      · next hv => exact .inr (.inr (.inr (.inl ⟨ht, hk, hv, rfl⟩)))
      · next hv => exact .inr (.inr (.inr (.inr ⟨ht, hk, hv, rfl⟩)))

/-- Everything the end of the stream can do to DEC (R181, R182, R183). -/
theorem Dec.atEnd_cases (d : Dec) :
    (d.k = 0#4 ∧ d.atEnd = { d with status := .done }) ∨
    (d.k ≠ 0#4 ∧ d.acc = 0#16 ∧ d.atEnd = { d with out := d.out ++ [spaceCode], status := .done }) ∨
    (d.k ≠ 0#4 ∧ d.acc ≠ 0#16 ∧ d.atEnd = d.raise (d.malformed .truncated (4 * d.inp.length))) := by
  unfold Dec.atEnd
  split
  · next hk => exact .inl ⟨hk, rfl⟩
  · next hk =>
    split
    · next ha => exact .inr (.inl ⟨hk, ha, rfl⟩)
    · next ha => exact .inr (.inr ⟨hk, ha, rfl⟩)

/-! ## Conditions -/

theorem Enc.charEnabled_iff (e : Enc) : e.charEnabled = true ↔ e.status = .run ∧ e.idx < e.text.length := by
  simp [Enc.charEnabled]

theorem Enc.doneEnabled_iff (e : Enc) : e.doneEnabled = true ↔ e.status = .run ∧ e.idx = e.text.length := by
  simp [Enc.doneEnabled]

theorem Dec.symEnabled_iff (d : Dec) : d.symEnabled = true ↔ d.status = .run ∧ d.ptr < d.inp.length := by
  simp [Dec.symEnabled]

theorem Dec.eosEnabled_iff (d : Dec) : d.eosEnabled = true ↔ d.status = .run ∧ d.ptr = d.inp.length := by
  simp [Dec.eosEnabled]

end Sys2Proof.Machine
end

