-- ==== Sys2Proof/Laws/Memory.lean ====
section
/-! SUPPORT. The packed buffer keeps its canonical form (spec/10_state.md R15) under every operation that writes it. -/

namespace Sys2Proof.Machine

/-- The form of a buffer with a last byte. -/
theorem Memory.wf_append (pre : Buffer) (b : Byte) (cur : Cursor) :
    Memory.wf (pre ++ [b]) cur = true ↔ cur = 0#2 ∨ b >>> (shiftOf cur).toNat = 0#8 := by
  unfold Memory.wf
  split
  · next h => simp [h]
  · next h => simp [h]

/-- A buffer in canonical form can be indexed where PUT indexes it (R154 b). -/
theorem Memory.wf_indexable {out : Buffer} {cur : Cursor} (h : Memory.wf out cur = true) : cur = 0#2 ∨ out ≠ [] := by
  by_cases hc : cur = 0#2
  · exact .inl hc
  · refine .inr fun ho => ?_
    simp [Memory.wf, hc, ho] at h

theorem Memory.reset_wf : Memory.wf State.reset.enc.out State.reset.enc.cur = true := rfl

/-- A symbol shifted in at bit `n` leaves the bits from `n + 2` on zero. -/
theorem or_shifted_symbol_high_zero (b : Byte) (v : Sym) (n : Nat) (h : b >>> n = 0#8) :
    (b ||| (v.setWidth 8 <<< n)) >>> (n + 2) = 0#8 := by
  apply BitVec.eq_of_getLsbD_eq
  intro i _
  have hb : b.getLsbD (n + (i + 2)) = false := by simpa using congrArg (fun x => x.getLsbD (i + 2)) h
  have he : n + 2 + i = n + (i + 2) := by omega
  simp [he, hb]

/-- After a symbol is written into the first slot that is still zero, the slots after it are still zero. -/
theorem writeSlot_leaves_rest_zero (b : Byte) (v : Sym) (c : Cursor) (h : b >>> (shiftOf c).toNat = 0#8) :
    nextCursor c = 0#2 ∨ writeSlot v b c >>> (shiftOf (nextCursor c)).toNat = 0#8 := by
  have hc : nextCursor c = 0#2 ∨ (shiftOf (nextCursor c)).toNat = (shiftOf c).toNat + 2 := by
    clear h; revert c; decide
  rcases hc with hc | hc
  · exact .inl hc
  · exact .inr (by rw [hc]; exact or_shifted_symbol_high_zero b v _ h)

/-- PUT keeps the canonical form. -/
theorem Enc.put_keeps_wf {e e' : Enc} {v : Sym} (hw : Memory.wf e.out e.cur = true) (h : e.put v = some e') :
    Memory.wf e'.out e'.cur = true := by
  obtain ⟨he, _, hcase⟩ := Enc.put_eq_some h
  have hcur : e'.cur = nextCursor e.cur := by rw [he]
  rcases hcase with ⟨hc, ho⟩ | ⟨pre, b, hc, ho, ho'⟩
  · rw [ho, hcur, Memory.wf_append, hc]
    exact writeSlot_leaves_rest_zero 0#8 v 0#2 rfl
  · rw [ho', hcur, Memory.wf_append]
    rw [ho, Memory.wf_append] at hw
    exact writeSlot_leaves_rest_zero b v e.cur (hw.resolve_left hc)

/-- PUTs keep the canonical form. -/
theorem Enc.puts_keep_wf {q : List Sym} {e e' : Enc} (hw : Memory.wf e.out e.cur = true) (h : e.puts q = some e') :
    Memory.wf e'.out e'.cur = true := by
  induction q generalizing e with
  | nil => obtain rfl := Option.some.inj h; exact hw
  | cons v rest ih =>
    simp only [Enc.puts] at h
    split at h
    · cases h
    · next e₁ h₁ => exact ih (Enc.put_keeps_wf hw h₁) h

end Sys2Proof.Machine
end

