-- ==== Sys2Proof/Laws/Table.lean ====
section
/-! SUPPORT. The table and the decoder over it: what a look-up answers, and that the decoder finds the same row. -/

namespace Sys2Proof

open Machine Config

theorem table_length : table.length = nChars := rfl

/-- The row that a character code decodes to is the row FWD finds (R152). -/
theorem decodeCharCode_eq (c : Byte) :
    (∃ row mk, (row, mk) ∈ instrRows ∧ row.code = foldCode c ∧ decodeCharCode c = .instr (mk .enc) ∧
      fwd (foldCode c) = some row.seq) ∨
    (decodeCharCode c = .reject (.unsupportedCode c) ∧ fwd (foldCode c) = none) := by
  unfold decodeCharCode fwd table
  rw [List.find?_map]
  simp only [Function.comp_def]
  cases hf : instrRows.find? (fun e => e.1.code == foldCode c) with
  | none => exact .inr ⟨rfl, rfl⟩
  | some e => exact .inl ⟨e.1, e.2, List.mem_of_find?_eq_some hf, by simpa using List.find?_some hf, rfl, rfl⟩

/-- The row that a code word decodes to is the row REV finds (R174). -/
theorem decodeCodeWord_eq (w : CodeWord) :
    (∃ row mk, (row, mk) ∈ instrRows ∧ codeWordOf row.seq = w ∧ decodeCodeWord w = .instr (mk .dec) ∧
      rev w = some row.code) ∨
    (decodeCodeWord w = .reject (.unmatchedCodeWord w) ∧ rev w = none) := by
  unfold decodeCodeWord rev table
  rw [List.find?_map]
  simp only [Function.comp_def]
  cases hf : instrRows.find? (fun e => codeWordOf e.1.seq == w) with
  | none => exact .inr ⟨rfl, rfl⟩
  | some e => exact .inl ⟨e.1, e.2, List.mem_of_find?_eq_some hf, by simpa using List.find?_some hf, rfl, rfl⟩

/-- A code that FWD finds is the code of a row of the table. -/
theorem fwd_eq_some {c : Byte} {q : List Sym} (h : fwd c = some q) : ∃ row ∈ table, row.code = c ∧ row.seq = q := by
  unfold fwd at h
  cases hf : table.find? (fun r => r.code == c) with
  | none => rw [hf] at h; cases h
  | some row =>
    rw [hf] at h
    exact ⟨row, List.mem_of_find?_eq_some hf, by simpa using List.find?_some hf, Option.some.inj h⟩

/-- A code that REV answers is the code of a row of the table, and that row has the word. -/
theorem rev_eq_some {w : CodeWord} {c : Byte} (h : rev w = some c) :
    ∃ row ∈ table, codeWordOf row.seq = w ∧ row.code = c := by
  unfold rev at h
  cases hf : table.find? (fun r => codeWordOf r.seq == w) with
  | none => rw [hf] at h; cases h
  | some row =>
    rw [hf] at h
    exact ⟨row, List.mem_of_find?_eq_some hf, by simpa using List.find?_some hf, Option.some.inj h⟩

end Sys2Proof
end

