-- ==== Sys2Proof/Laws/PerInstr.lean ====
section
/-! SUPPORT. Statements about every instruction, made per instruction: EncodedFits. -/

namespace Sys2Proof.Laws.EncodedFits

/-- The word of an instruction fits in the width of its format. -/
def Statement (i : Instr) : Prop := ∀ f w, encode i = some (f, w) → w < 2 ^ f.bits

/-- Both words of a row fit. -/
theorem of_row {i : Instr} {r : Row} {u : UnitId} (h : encode i = some (encodeRow r u)) : Statement i := by
  intro f w hw
  rw [h] at hw
  cases u with
  | enc => obtain ⟨rfl, rfl⟩ := Prod.mk.inj (Option.some.inj hw); exact r.code.isLt
  | dec => obtain ⟨rfl, rfl⟩ := Prod.mk.inj (Option.some.inj hw); exact (codeWordOf r.seq).isLt

/-- An instruction without a word has none too wide. -/
theorem of_none {i : Instr} (h : encode i = none) : Statement i := by
  intro f w hw
  rw [h] at hw
  cases hw

/-- A symbol's word fits. -/
theorem of_symbol {i : Instr} {v : Sym} (h : encode i = some (.symbol2, v.toNat)) : Statement i := by
  intro f w hw
  rw [h] at hw
  obtain ⟨rfl, rfl⟩ := Prod.mk.inj (Option.some.inj hw)
  exact v.isLt

theorem charA (u : UnitId) : Statement (.charA u) := of_row rfl
theorem charB (u : UnitId) : Statement (.charB u) := of_row rfl
theorem charC (u : UnitId) : Statement (.charC u) := of_row rfl
theorem charD (u : UnitId) : Statement (.charD u) := of_row rfl
theorem charE (u : UnitId) : Statement (.charE u) := of_row rfl
theorem charF (u : UnitId) : Statement (.charF u) := of_row rfl
theorem charG (u : UnitId) : Statement (.charG u) := of_row rfl
theorem charH (u : UnitId) : Statement (.charH u) := of_row rfl
theorem charI (u : UnitId) : Statement (.charI u) := of_row rfl
theorem charJ (u : UnitId) : Statement (.charJ u) := of_row rfl
theorem charK (u : UnitId) : Statement (.charK u) := of_row rfl
theorem charL (u : UnitId) : Statement (.charL u) := of_row rfl
theorem charM (u : UnitId) : Statement (.charM u) := of_row rfl
theorem charN (u : UnitId) : Statement (.charN u) := of_row rfl
theorem charO (u : UnitId) : Statement (.charO u) := of_row rfl
theorem charP (u : UnitId) : Statement (.charP u) := of_row rfl
theorem charQ (u : UnitId) : Statement (.charQ u) := of_row rfl
theorem charR (u : UnitId) : Statement (.charR u) := of_row rfl
theorem charS (u : UnitId) : Statement (.charS u) := of_row rfl
theorem charT (u : UnitId) : Statement (.charT u) := of_row rfl
theorem charU (u : UnitId) : Statement (.charU u) := of_row rfl
theorem charV (u : UnitId) : Statement (.charV u) := of_row rfl
theorem charW (u : UnitId) : Statement (.charW u) := of_row rfl
theorem charX (u : UnitId) : Statement (.charX u) := of_row rfl
theorem charY (u : UnitId) : Statement (.charY u) := of_row rfl
theorem charZ (u : UnitId) : Statement (.charZ u) := of_row rfl
theorem char0 (u : UnitId) : Statement (.char0 u) := of_row rfl
theorem char1 (u : UnitId) : Statement (.char1 u) := of_row rfl
theorem char2 (u : UnitId) : Statement (.char2 u) := of_row rfl
theorem char3 (u : UnitId) : Statement (.char3 u) := of_row rfl
theorem char4 (u : UnitId) : Statement (.char4 u) := of_row rfl
theorem char5 (u : UnitId) : Statement (.char5 u) := of_row rfl
theorem char6 (u : UnitId) : Statement (.char6 u) := of_row rfl
theorem char7 (u : UnitId) : Statement (.char7 u) := of_row rfl
theorem char8 (u : UnitId) : Statement (.char8 u) := of_row rfl
theorem char9 (u : UnitId) : Statement (.char9 u) := of_row rfl
theorem charColon (u : UnitId) : Statement (.charColon u) := of_row rfl
theorem charPeriod (u : UnitId) : Statement (.charPeriod u) := of_row rfl
theorem charQuestion (u : UnitId) : Statement (.charQuestion u) := of_row rfl
theorem charSlash (u : UnitId) : Statement (.charSlash u) := of_row rfl
theorem charHyphen (u : UnitId) : Statement (.charHyphen u) := of_row rfl
theorem charLparen (u : UnitId) : Statement (.charLparen u) := of_row rfl
theorem charRparen (u : UnitId) : Statement (.charRparen u) := of_row rfl
theorem charSpace (u : UnitId) : Statement (.charSpace u) := of_row rfl
theorem symEnd : Statement .symEnd := of_symbol rfl
theorem symDit : Statement .symDit := of_symbol rfl
theorem symDah : Statement .symDah := of_symbol rfl
theorem symReserved : Statement .symReserved := of_symbol rfl
theorem byte (s0 s1 s2 s3 : Sym) : Statement (.byte s0 s1 s2 s3) := by
  intro f w hw
  obtain ⟨rfl, rfl⟩ := Prod.mk.inj (Option.some.inj hw)
  exact (byteOf s0 s1 s2 s3).isLt
theorem codeword (p0 p1 p2 p3 p4 p5 p6 p7 : Sym) : Statement (.codeword p0 p1 p2 p3 p4 p5 p6 p7) := by
  intro f w hw
  obtain ⟨rfl, rfl⟩ := Prod.mk.inj (Option.some.inj hw)
  exact (codeWordOf _).isLt
theorem shift (c : Cursor) : Statement (.shift c) := of_none rfl
theorem advance (c : Cursor) : Statement (.advance c) := of_none rfl
theorem write (v : Sym) (b : Byte) (c : Cursor) : Statement (.write v b c) := of_none rfl
theorem read (b : Byte) (c : Cursor) : Statement (.read b c) := of_none rfl
theorem fold (c : Byte) : Statement (.fold c) := of_none rfl
theorem fwd (c : Byte) : Statement (.fwd c) := of_none rfl
theorem put (v : Sym) : Statement (.put v) := of_none rfl
theorem encChar : Statement .encChar := of_none rfl
theorem encDone : Statement .encDone := of_none rfl
theorem encode (text : Buffer) : Statement (.encode text) := of_none rfl
theorem place (acc : CodeWord) (k : BitVec 4) (v : Sym) : Statement (.place acc k v) := of_none rfl
theorem rev (w : CodeWord) : Statement (.rev w) := of_none rfl
theorem terminates (v : Sym) (acc : CodeWord) : Statement (.terminates v acc) := of_none rfl
theorem decSym : Statement .decSym := of_none rfl
theorem decEos : Statement .decEos := of_none rfl
theorem decode (bytes : Buffer) : Statement (.decode bytes) := of_none rfl

end Sys2Proof.Laws.EncodedFits
end

