-- ==== Sys2Proof/Laws/Units.lean ====
section
/-! SUPPORT. What the shared steps and passes of the two units can do, and the shapes of the meanings. -/

namespace Sys2Proof.Machine

open Config

/-! ## ENC -/

/-- Everything the work of a character can do (R155, R156). -/
theorem Enc.putChar_eq_some {e e' : Enc} {q : List Sym} (h : e.putChar q = some e') :
    ∃ p, e.puts (streamForm q) = some p ∧ e' = { e with idx := e.idx + 1, cur := p.cur, out := p.out } := by
  unfold Enc.putChar at h
  split at h
  · cases h
  · next p hp =>
    refine ⟨p, hp, ?_⟩
    rw [← Option.some.inj h, Enc.puts_frame hp]

/-- The work of a character is defined where the output can be indexed (R154 b). -/
theorem Enc.putChar_isSome {e : Enc} (q : List Sym) (h : e.cur = 0#2 ∨ e.out ≠ []) : ∃ e', e.putChar q = some e' := by
  obtain ⟨p, hp⟩ := Enc.puts_isSome (streamForm q) e h
  exact ⟨_, by unfold Enc.putChar; rw [hp]⟩

/-- Everything ENC_CHAR can do with a code (R156). -/
theorem Enc.charStep_cases {e e' : Enc} {raw : Byte} (h : e.charStep raw = some e') :
    (fwd (foldCode raw) = none ∧ e' = e.raise { index := e.idx, code := raw }) ∨
    ∃ q p, fwd (foldCode raw) = some q ∧ e.puts (streamForm q) = some p ∧
      e' = { e with idx := e.idx + 1, cur := p.cur, out := p.out } := by
  unfold Enc.charStep at h
  split at h
  · next hf => exact .inl ⟨hf, (Option.some.inj h).symm⟩
  · next q hf =>
    obtain ⟨p, hp, he⟩ := Enc.putChar_eq_some h
    exact .inr ⟨q, p, hf, hp, he⟩

theorem Enc.charStep_text {e e' : Enc} {raw : Byte} (h : e.charStep raw = some e') : e'.text = e.text := by
  rcases Enc.charStep_cases h with ⟨_, rfl⟩ | ⟨_, _, _, _, rfl⟩ <;> rfl

/-- A turn of ENCODE's loop below the end of the text (R158). -/
theorem Enc.turn_below {e : Enc} {raw : Byte} (h : e.text[e.idx]? = some raw) : e.turn = e.charStep raw := by
  simp [Enc.turn, memRead, h]

/-- A turn of ENCODE's loop at the end of the text (R158). -/
theorem Enc.turn_at_end {e : Enc} (h : e.text.length ≤ e.idx) : e.turn = some e.finish := by
  simp [Enc.turn, memRead, List.getElem?_eq_none h]

/-- What a turn in RUN keeps, ENCODE's loop keeps. -/
theorem Enc.loop_keeps (P : Enc → Prop) (hturn : ∀ e e', P e → e.status = .run → e.turn = some e' → P e') :
    ∀ (n : Nat) (e e' : Enc), P e → e.loop n = some e' → P e' := by
  intro n
  induction n with
  | zero =>
    intro e e' he h
    rw [← Option.some.inj h]
    exact he
  | succ n ih =>
    intro e e' he h
    unfold Enc.loop at h
    split at h
    · next hr =>
      split at h
      · cases h
      · next e1 h1 => exact ih e1 e' (hturn e e1 he hr h1) h
    · rw [← Option.some.inj h]
      exact he

/-- An ended pass stays as it is. -/
theorem Enc.loop_ended {e : Enc} (h : e.status ≠ .run) (n : Nat) : e.loop n = some e := by
  cases n with
  | zero => rfl
  | succ n => simp [Enc.loop, h]

/-! ## DEC -/

theorem Dec.onSymbol_inp (r : SpaceRule) (d : Dec) (v : Sym) : (d.onSymbol r v).inp = d.inp := by
  rcases Dec.onSymbol_cases r d v with ⟨_, _, _, h⟩ | ⟨_, _, h⟩ | ⟨_, _, h⟩ | ⟨_, _, _, h⟩ | ⟨_, _, _, h⟩ <;> rw [h] <;> rfl

theorem Dec.atEnd_inp (d : Dec) : d.atEnd.inp = d.inp := by
  rcases Dec.atEnd_cases d with ⟨_, h⟩ | ⟨_, _, h⟩ | ⟨_, _, h⟩ <;> simp [h]

/-- A turn of DECODE's loop below the end of the input (R184). -/
theorem Dec.turn_below {d : Dec} {b : Byte} (r : SpaceRule) (h : d.inp[d.ptr]? = some b) :
    d.turn r = d.onSymbol r (readSlot b d.cur) := by
  simp [Dec.turn, memRead, h]

/-- A turn of DECODE's loop at the end of the input (R184). -/
theorem Dec.turn_at_end {d : Dec} (r : SpaceRule) (h : d.inp.length ≤ d.ptr) : d.turn r = d.atEnd := by
  simp [Dec.turn, memRead, List.getElem?_eq_none h]

/-- What a turn in RUN keeps, DECODE's loop keeps. -/
theorem Dec.loop_keeps (r : SpaceRule) (P : Dec → Prop) (hturn : ∀ d, P d → d.status = .run → P (d.turn r)) :
    ∀ (n : Nat) (d : Dec), P d → P (d.loop r n) := by
  intro n
  induction n with
  | zero => exact fun d hd => hd
  | succ n ih =>
    intro d hd
    unfold Dec.loop
    split
    · next hr => exact ih _ (hturn d hd hr)
    · exact hd

/-- An ended pass stays as it is. -/
theorem Dec.loop_ended {d : Dec} (r : SpaceRule) (h : d.status ≠ .run) (n : Nat) : d.loop r n = d := by
  cases n with
  | zero => rfl
  | succ n => simp [Dec.loop, h]

/-- DEC_SYM, where enabled, is a turn of DECODE's loop (R176, R184). -/
theorem exec_decSym_eq_turn {s : State} (hr : s.dec.status = .run) (hp : s.dec.ptr < s.dec.inp.length) :
    exec .decSym s = .next (s.setDec (s.dec.turn s.spaceRule)) := by
  have hE := (Dec.symEnabled_iff s.dec).2 ⟨hr, hp⟩
  simp [exec, execDecSym, hE, memRead, Dec.turn, List.getElem?_eq_getElem hp]

/-- DEC_EOS, where enabled, is a turn of DECODE's loop (R181 to R184). -/
theorem exec_decEos_eq_turn {s : State} (hr : s.dec.status = .run) (hp : s.dec.ptr = s.dec.inp.length) :
    exec .decEos s = .next (s.setDec (s.dec.turn s.spaceRule)) := by
  have hE := (Dec.eosEnabled_iff s.dec).2 ⟨hr, hp⟩
  simp [exec, execDecEos, hE, Dec.turn_at_end s.spaceRule hp.ge]

/-- A step of a unit in RUN runs an instruction of that unit; any other step is a pass the host asked for, or the stop (R211). -/
theorem fetch_eq_some {s s' : State} {i : Instr} (h : fetch s = some (i, s')) :
    (∃ u, s.mover = some u ∧ i = s.fetchOf u ∧ s' = s) ∨
    ∃ c rest, s.mover = none ∧ s.calls = c :: rest ∧ i = callInstr c ∧ s' = { s with calls := rest } := by
  unfold fetch at h
  split at h
  · next u hu => obtain ⟨rfl, rfl⟩ := Prod.mk.inj (Option.some.inj h); exact .inl ⟨u, hu, rfl, rfl⟩
  · next hu =>
    split at h
    · next c rest hc => obtain ⟨rfl, rfl⟩ := Prod.mk.inj (Option.some.inj h); exact .inr ⟨c, rest, hu, hc, rfl, rfl⟩
    · cases h

/-! ## The shapes of the meanings -/

/-- Every instruction of a table row runs its row. -/
theorem exec_of_row : ∀ e ∈ instrRows, ∀ (u : UnitId) (s : State), exec (e.2 u) s = runRow e.1 u s := by
  simp only [instrRows, letterRows, digitRows, markRows, List.cons_append, List.nil_append, List.forall_mem_cons,
    List.not_mem_nil, false_implies, implies_true, and_true]
  repeat' apply And.intro
  all_goals exact fun _ _ => rfl

/-- What kind of meaning an instruction has. -/
inductive Shape (i : Instr) : Prop where
  | row (r : Row) (u : UnitId) (hr : r ∈ table) (h : ∀ s, exec i s = runRow r u s) (hu : unitOf i = some u)
  | symbol (v : Sym) (h : ∀ s, exec i s = runSymbol v s) (hu : unitOf i = some .dec)
  | value (f : SpaceRule → Returned) (h : ∀ s, exec i s = .next (s.returning (f s.spaceRule))) (hu : unitOf i = none)
  | place (acc : CodeWord) (k : BitVec 4) (v : Sym) (h : i = .place acc k v)
  | put (v : Sym) (h : i = .put v)
  | encChar (h : i = .encChar)
  | encDone (h : i = .encDone)
  | encode (x : Buffer) (h : i = .encode x)
  | decSym (h : i = .decSym)
  | decEos (h : i = .decEos)
  | decode (x : Buffer) (h : i = .decode x)

/-- Every instruction has one of the shapes: the case split of statements about all instructions. -/
theorem shape_of (i : Instr) : Shape i := by
  cases i
  case put v => exact .put v rfl
  case encChar => exact .encChar rfl
  case encDone => exact .encDone rfl
  case encode x => exact .encode x rfl
  case decode x => exact .decode x rfl
  case decSym => exact .decSym rfl
  case decEos => exact .decEos rfl
  case place a k v => exact .place a k v rfl
  case symEnd => exact .symbol _ (fun _ => rfl) rfl
  case symDit => exact .symbol _ (fun _ => rfl) rfl
  case symDah => exact .symbol _ (fun _ => rfl) rfl
  case symReserved => exact .symbol _ (fun _ => rfl) rfl
  case byte => exact .value (fun _ => _) (fun _ => rfl) rfl
  case codeword => exact .value (fun _ => _) (fun _ => rfl) rfl
  case shift => exact .value (fun _ => _) (fun _ => rfl) rfl
  case advance => exact .value (fun _ => _) (fun _ => rfl) rfl
  case write => exact .value (fun _ => _) (fun _ => rfl) rfl
  case read => exact .value (fun _ => _) (fun _ => rfl) rfl
  case fold => exact .value (fun _ => _) (fun _ => rfl) rfl
  case fwd => exact .value (fun _ => _) (fun _ => rfl) rfl
  case rev => exact .value (fun _ => _) (fun _ => rfl) rfl
  case terminates v a => exact .value (fun r => .truth (terminatesUnder r v a)) (fun _ => rfl) rfl
  all_goals exact .row _ _ (by decide) (fun _ => rfl) rfl

end Sys2Proof.Machine
end

