-- ==== Sys2Proof/Tests/Slice0.lean ====
section
/-! SUPPORT. Tests of the model: what WellFormed refuses, a word of every row decoded, single steps with results from the
spec's examples, and for every statement with hypotheses a state that meets them. -/

open Sys2Proof Sys2Proof.Machine

namespace Sys2Proof.Tests

/-! ## Small states -/

/-- ENC in RUN on a text, at an index, a cursor and an output; DEC at the start of a pass over nothing. -/
def encAt (text : Buffer) (idx : Nat) (cur : Cursor) (out : Buffer) : State :=
  { State.reset with enc := { text := text, idx := idx, cur := cur, out := out, status := .run } }

/-- DEC in RUN under a space rule on an input, at a slot, with a code word and a count; ENC at DONE on nothing. -/
def decAt (r : SpaceRule) (inp : Buffer) (ptr : Nat) (cur : Cursor) (acc : CodeWord) (k : BitVec 4) : State :=
  { State.reset with
    spaceRule := r
    enc := (Enc.start []).finish
    dec := { inp := inp, ptr := ptr, cur := cur, acc := acc, k := k, out := [], status := .run } }

/-- Both units at DONE, with these calls of the host. -/
def idle (calls : List Call) : State :=
  { State.reset with enc := (Enc.start []).finish, dec := (Dec.start []).atEnd, calls := calls }

/-- The next state of an answer, the state of reset where there is none. -/
def after : Answer → State
  | .next s => s
  | .fault _ => State.reset
  | .refused _ => State.reset

/-- An answer is a next state. -/
def goesOn : Answer → Bool
  | .next _ => true
  | .fault _ => false
  | .refused _ => false

/-! ## WellFormed (R173) -/

theorem test_place_k8_is_ill_formed : (Instr.place 0x0000#16 8#4 0b01#2).wellFormed = false := by decide
theorem test_place_k7_is_well_formed : (Instr.place 0x0000#16 7#4 0b01#2).wellFormed = true := by decide

/-! ## Decoding: the words of spec/opcode_table.json and the codes of R58, written out -/

theorem test_decode_char_a :
    decode .codeWord16 0b0110000000000000 = .instr (.charA .dec) ∧ decode .charCode8 0x41 = .instr (.charA .enc) := by decide
theorem test_decode_char_b :
    decode .codeWord16 0b1001010100000000 = .instr (.charB .dec) ∧ decode .charCode8 0x42 = .instr (.charB .enc) := by decide
theorem test_decode_char_c :
    decode .codeWord16 0b1001100100000000 = .instr (.charC .dec) ∧ decode .charCode8 0x43 = .instr (.charC .enc) := by decide
theorem test_decode_char_d :
    decode .codeWord16 0b1001010000000000 = .instr (.charD .dec) ∧ decode .charCode8 0x44 = .instr (.charD .enc) := by decide
theorem test_decode_char_e :
    decode .codeWord16 0b0100000000000000 = .instr (.charE .dec) ∧ decode .charCode8 0x45 = .instr (.charE .enc) := by decide
theorem test_decode_char_f :
    decode .codeWord16 0b0101100100000000 = .instr (.charF .dec) ∧ decode .charCode8 0x46 = .instr (.charF .enc) := by decide
theorem test_decode_char_g :
    decode .codeWord16 0b1010010000000000 = .instr (.charG .dec) ∧ decode .charCode8 0x47 = .instr (.charG .enc) := by decide
theorem test_decode_char_h :
    decode .codeWord16 0b0101010100000000 = .instr (.charH .dec) ∧ decode .charCode8 0x48 = .instr (.charH .enc) := by decide
theorem test_decode_char_i :
    decode .codeWord16 0b0101000000000000 = .instr (.charI .dec) ∧ decode .charCode8 0x49 = .instr (.charI .enc) := by decide
theorem test_decode_char_j :
    decode .codeWord16 0b0110101000000000 = .instr (.charJ .dec) ∧ decode .charCode8 0x4A = .instr (.charJ .enc) := by decide
theorem test_decode_char_k :
    decode .codeWord16 0b1001100000000000 = .instr (.charK .dec) ∧ decode .charCode8 0x4B = .instr (.charK .enc) := by decide
theorem test_decode_char_l :
    decode .codeWord16 0b0110010100000000 = .instr (.charL .dec) ∧ decode .charCode8 0x4C = .instr (.charL .enc) := by decide
theorem test_decode_char_m :
    decode .codeWord16 0b1010000000000000 = .instr (.charM .dec) ∧ decode .charCode8 0x4D = .instr (.charM .enc) := by decide
theorem test_decode_char_n :
    decode .codeWord16 0b1001000000000000 = .instr (.charN .dec) ∧ decode .charCode8 0x4E = .instr (.charN .enc) := by decide
theorem test_decode_char_o :
    decode .codeWord16 0b1010100000000000 = .instr (.charO .dec) ∧ decode .charCode8 0x4F = .instr (.charO .enc) := by decide
theorem test_decode_char_p :
    decode .codeWord16 0b0110100100000000 = .instr (.charP .dec) ∧ decode .charCode8 0x50 = .instr (.charP .enc) := by decide
theorem test_decode_char_q :
    decode .codeWord16 0b1010011000000000 = .instr (.charQ .dec) ∧ decode .charCode8 0x51 = .instr (.charQ .enc) := by decide
theorem test_decode_char_r :
    decode .codeWord16 0b0110010000000000 = .instr (.charR .dec) ∧ decode .charCode8 0x52 = .instr (.charR .enc) := by decide
theorem test_decode_char_s :
    decode .codeWord16 0b0101010000000000 = .instr (.charS .dec) ∧ decode .charCode8 0x53 = .instr (.charS .enc) := by decide
theorem test_decode_char_t :
    decode .codeWord16 0b1000000000000000 = .instr (.charT .dec) ∧ decode .charCode8 0x54 = .instr (.charT .enc) := by decide
theorem test_decode_char_u :
    decode .codeWord16 0b0101100000000000 = .instr (.charU .dec) ∧ decode .charCode8 0x55 = .instr (.charU .enc) := by decide
theorem test_decode_char_v :
    decode .codeWord16 0b0101011000000000 = .instr (.charV .dec) ∧ decode .charCode8 0x56 = .instr (.charV .enc) := by decide
theorem test_decode_char_w :
    decode .codeWord16 0b0110100000000000 = .instr (.charW .dec) ∧ decode .charCode8 0x57 = .instr (.charW .enc) := by decide
theorem test_decode_char_x :
    decode .codeWord16 0b1001011000000000 = .instr (.charX .dec) ∧ decode .charCode8 0x58 = .instr (.charX .enc) := by decide
theorem test_decode_char_y :
    decode .codeWord16 0b1001101000000000 = .instr (.charY .dec) ∧ decode .charCode8 0x59 = .instr (.charY .enc) := by decide
theorem test_decode_char_z :
    decode .codeWord16 0b1010010100000000 = .instr (.charZ .dec) ∧ decode .charCode8 0x5A = .instr (.charZ .enc) := by decide
theorem test_decode_char_0 :
    decode .codeWord16 0b1010101010000000 = .instr (.char0 .dec) ∧ decode .charCode8 0x30 = .instr (.char0 .enc) := by decide
theorem test_decode_char_1 :
    decode .codeWord16 0b0110101010000000 = .instr (.char1 .dec) ∧ decode .charCode8 0x31 = .instr (.char1 .enc) := by decide
theorem test_decode_char_2 :
    decode .codeWord16 0b0101101010000000 = .instr (.char2 .dec) ∧ decode .charCode8 0x32 = .instr (.char2 .enc) := by decide
theorem test_decode_char_3 :
    decode .codeWord16 0b0101011010000000 = .instr (.char3 .dec) ∧ decode .charCode8 0x33 = .instr (.char3 .enc) := by decide
theorem test_decode_char_4 :
    decode .codeWord16 0b0101010110000000 = .instr (.char4 .dec) ∧ decode .charCode8 0x34 = .instr (.char4 .enc) := by decide
theorem test_decode_char_5 :
    decode .codeWord16 0b0101010101000000 = .instr (.char5 .dec) ∧ decode .charCode8 0x35 = .instr (.char5 .enc) := by decide
theorem test_decode_char_6 :
    decode .codeWord16 0b1001010101000000 = .instr (.char6 .dec) ∧ decode .charCode8 0x36 = .instr (.char6 .enc) := by decide
theorem test_decode_char_7 :
    decode .codeWord16 0b1010010101000000 = .instr (.char7 .dec) ∧ decode .charCode8 0x37 = .instr (.char7 .enc) := by decide
theorem test_decode_char_8 :
    decode .codeWord16 0b1010100101000000 = .instr (.char8 .dec) ∧ decode .charCode8 0x38 = .instr (.char8 .enc) := by decide
theorem test_decode_char_9 :
    decode .codeWord16 0b1010101001000000 = .instr (.char9 .dec) ∧ decode .charCode8 0x39 = .instr (.char9 .enc) := by decide
theorem test_decode_char_colon :
    decode .codeWord16 0b1010100101010000 = .instr (.charColon .dec) ∧ decode .charCode8 0x3A = .instr (.charColon .enc) := by decide
theorem test_decode_char_period :
    decode .codeWord16 0b0110011001100000 = .instr (.charPeriod .dec) ∧ decode .charCode8 0x2E = .instr (.charPeriod .enc) := by decide
theorem test_decode_char_question :
    decode .codeWord16 0b0101101001010000 = .instr (.charQuestion .dec) ∧ decode .charCode8 0x3F = .instr (.charQuestion .enc) := by decide
theorem test_decode_char_slash :
    decode .codeWord16 0b1001011001000000 = .instr (.charSlash .dec) ∧ decode .charCode8 0x2F = .instr (.charSlash .enc) := by decide
theorem test_decode_char_hyphen :
    decode .codeWord16 0b1001010101100000 = .instr (.charHyphen .dec) ∧ decode .charCode8 0x2D = .instr (.charHyphen .enc) := by decide
theorem test_decode_char_lparen :
    decode .codeWord16 0b1001101001000000 = .instr (.charLparen .dec) ∧ decode .charCode8 0x28 = .instr (.charLparen .enc) := by decide
theorem test_decode_char_rparen :
    decode .codeWord16 0b1001101001100000 = .instr (.charRparen .dec) ∧ decode .charCode8 0x29 = .instr (.charRparen .enc) := by decide
theorem test_decode_char_space :
    decode .codeWord16 0b0000000000000000 = .instr (.charSpace .dec) ∧ decode .charCode8 0x20 = .instr (.charSpace .enc) := by decide
theorem test_decode_sym_end : decode .symbol2 0b00 = .instr .symEnd := by decide
theorem test_decode_sym_dit : decode .symbol2 0b01 = .instr .symDit := by decide
theorem test_decode_sym_dah : decode .symbol2 0b10 = .instr .symDah := by decide
theorem test_decode_sym_reserved : decode .symbol2 0b11 = .instr .symReserved := by decide
theorem test_decode_byte : decode .byte4x2 0b11100100 = .instr (.byte 0b00#2 0b01#2 0b10#2 0b11#2) := by decide
theorem test_decode_codeword : decode .layout16 0b0001101100011011 =
    .instr (.codeword 0b00#2 0b01#2 0b10#2 0b11#2 0b00#2 0b01#2 0b10#2 0b11#2) := by decide

/-- R61, R62: no row. -/
theorem test_decode_rejects :
    decode .codeWord16 0x2540 = .reject (.unmatchedCodeWord 0x2540#16) ∧
    decode .charCode8 0x21 = .reject (.unsupportedCode 0x21#8) ∧ decode .symbol2 4 = .reject (.tooWide .symbol2 4) := by decide

/-- Log 11: an 8-bit row's bits and a 16-bit row's bits, as the host numbers them. -/
theorem test_table_words : decodeTableWord 16 0xA000 = some (.charM .dec) ∧ decodeTableWord 8 2 = some .symDah ∧
    decodeTableWord 2 3 = some .symReserved ∧ decodeTableWord 16 0x2540 = none := by decide

/-! ## Single steps, results from the spec's examples and rules -/

/-- R71, R72, R74, R75. -/
theorem test_primitives : shiftOf 3#2 = 6#3 ∧ nextCursor 3#2 = 0#2 ∧ writeSlot 0b10#2 0x01#8 1#2 = 0x09#8 ∧
    readSlot 0x09#8 1#2 = 0b10#2 := by decide

/-- R226: Dit OR Dah is the reserved value. -/
theorem test_write_ors : (after (exec (.write 0b01#2 0x02#8 0#2) State.reset)).ret = .byte 0x03#8 := by decide

/-- R151: both ends of the range, and the codes beside it. -/
theorem test_fold : foldCode 0x61#8 = 0x41#8 ∧ foldCode 0x7A#8 = 0x5A#8 ∧ foldCode 0x60#8 = 0x60#8 ∧
    foldCode 0x7B#8 = 0x7B#8 := by decide

/-- R173: positions 0 and 7. -/
theorem test_place : placeSym 0x0000#16 0#4 0b01#2 = 0x4000#16 ∧ placeSym 0x4000#16 7#4 0b10#2 = 0x4002#16 := by decide

/-- R158: `A` encodes to 0x09; `A B` to 0x09 0x56 0x00 (R188). -/
theorem test_encode : (after (exec (.encode [0x41#8]) State.reset)).ret = .encoded (.ok [0x09#8]) ∧
    (after (exec (.encode [0x41#8, 0x20#8, 0x42#8]) State.reset)).ret = .encoded (.ok [0x09#8, 0x56#8, 0x00#8]) := by decide

/-- R184: 0x15 0x2A 0x15 decodes to `SOS`. -/
theorem test_decode_sos : (after (exec (.decode [0x15#8, 0x2A#8, 0x15#8]) State.reset)).ret =
    .decoded (.ok [0x53#8, 0x4F#8, 0x53#8]) := by decide

/-- R179, R183, R188: what the three buffers of the examples record. -/
theorem test_decode_faults :
    (after (exec (.decode [0x03#8]) State.reset)).dec.status = .fault ⟨.noMatch, 0xC000#16, 1⟩ ∧
    (after (exec (.decode [0x55#8]) State.reset)).dec.status = .fault ⟨.truncated, 0x5500#16, 4⟩ ∧
    (after (exec (.decode [0x09#8, 0x56#8, 0x00#8]) State.reset)).dec.status = .fault ⟨.noMatch, 0x2540#16, 8⟩ := by decide

/-- R185: 0x01 decodes to `E` and two spaces. -/
theorem test_decode_immediate :
    (after (exec (.decode [0x01#8]) (decAt .immediate [] 0 0#2 0x0000#16 0#4))).ret =
      .decoded (.ok [0x45#8, 0x20#8, 0x20#8]) := by decide

/-- R176, the example: from ptr 0, cur 3 on 0x15 0x2A, End is read and the pointers become 1 and 0. -/
theorem test_dec_sym : (after (exec .decSym (decAt .absorb [0x15#8, 0x2A#8] 0 3#2 0x5400#16 3#4))).dec =
    { inp := [0x15#8, 0x2A#8], ptr := 1, cur := 0#2, acc := 0x0000#16, k := 0#4, out := [0x53#8], status := .run } := by decide

/-- R203. -/
theorem test_fault_numbers : ((Enc.start []).raise ⟨0, 0x21#8⟩).faultNumber = 1 ∧
    ((Dec.start []).raise ⟨.overflow, 0x0000#16, 9⟩).faultNumber = 2 ∧ MalformedCause.truncated.number = 2 := by decide

/-- Words of the table stored for the next step, and run by it: M's code word, a Dit, and the reserved value. -/
theorem test_step_runs_stored_words :
    (after (step (State.reset.withFetchWord 16 0xA000))).dec.out = [0x4D#8] ∧
    (after (step (State.reset.withFetchWord 8 1))).dec.acc = 0x4000#16 ∧
    (after (step (State.reset.withFetchWord 8 3))).dec.acc = 0xC000#16 := by decide

/-- R147, R185: the code word of space, which only IMMEDIATE looks up. -/
theorem test_step_runs_space : (after (step (State.reset.withFetchWord 16 0))).dec.out = [0x20#8] := by decide

/-- Log 1: from reset the two empty passes end, and then no step is enabled. -/
theorem test_run_from_reset : (after (step (after (step State.reset)))).dec.status = .done ∧
    step (after (step (after (step State.reset)))) = .fault .noStepEnabled := ⟨by decide, rfl⟩

/-! ## Witnesses: for each statement with hypotheses, a state that meets them -/

/-- PutsSymbols (the three statements of ENC's rows), at cursor 0 with no output and at cursor 3 with a byte. -/
theorem witness_row_in_enc :
    (encAt [0x41#8] 0 0#2 []).enc.status = .run ∧
    (encAt [0x41#8] 0 0#2 []).enc.idx < (encAt [0x41#8] 0 0#2 []).enc.text.length ∧
    ((encAt [0x41#8] 0 0#2 []).enc.cur = 0#2 ∨ (encAt [0x41#8] 0 0#2 []).enc.out ≠ []) ∧
    (after (exec (.charA .enc) (encAt [0x41#8] 0 0#2 []))).enc = (encAt [0x41#8] 1 3#2 [0x09#8]).enc ∧
    (after (exec (.charB .enc) (encAt [0x41#8, 0x42#8] 1 3#2 [0x09#8]))).enc =
      (encAt [0x41#8, 0x42#8] 2 0#2 [0x89#8, 0x15#8]).enc := by decide

/-- EmitsCode (the three statements of DEC's rows), at the last slot of a byte. -/
theorem witness_row_in_dec :
    (decAt .absorb [0x15#8] 0 3#2 0x5400#16 3#4).dec.status = .run ∧
    (decAt .absorb [0x15#8] 0 3#2 0x5400#16 3#4).dec.ptr < (decAt .absorb [0x15#8] 0 3#2 0x5400#16 3#4).dec.inp.length ∧
    (after (exec (.charS .dec) (decAt .absorb [0x15#8] 0 3#2 0x5400#16 3#4))).dec.out = [0x53#8] := by decide

/-- WriteOrsTheSymbolIntoTheSlot: the empty slot, another slot, and the symbol 00. -/
theorem witness_write : slotOf 0x01#8 (1#2 : Cursor).toNat = 0b00#2 ∧ 3 < 4 ∧ 3 ≠ (1#2 : Cursor).toNat ∧
    slotOf (writeSlot 0b10#2 0x01#8 1#2) 1 = 0b10#2 ∧ writeSlot 0b00#2 0x01#8 1#2 = 0x01#8 := by decide

/-- PrimitiveLaws: laws 1, 3 and 7. -/
theorem witness_laws : readSlot 0x01#8 3#2 = 0b00#2 ∧ (0#2 : Cursor) ≠ 3#2 ∧ nextCursor 3#2 = nextCursor 3#2 := by decide

/-- FoldUppercasesLettersOnly: the two ranges at their ends. -/
theorem witness_fold : (0x61 ≤ (0x7A#8 : Byte).toNat ∧ (0x7A#8 : Byte).toNat ≤ 0x7A) ∧
    ((0x60#8 : Byte).toNat < 0x61 ∨ 0x7A < (0x60#8 : Byte).toNat) ∧ 0x7A < (0x7B#8 : Byte).toNat := by decide

/-- ForwardLookUpFindsTheRow: a row and a code without one. -/
theorem witness_forward : rowA ∈ table ∧ rowA.code = 0x41#8 ∧ (∀ row ∈ table, row.code ≠ 0x21#8) := by decide

/-- ReverseLookUpFindsTheRow: a row and a code word without one. -/
theorem witness_reverse : rowA ∈ table ∧ codeWordOf rowA.seq = 0x6000#16 ∧
    (∀ row ∈ table, codeWordOf row.seq ≠ 0x2540#16) := by decide

/-- TableDirectionsMirror, both directions. -/
theorem witness_mirror : fwd 0x53#8 = some [0b01#2, 0b01#2, 0b01#2] ∧ rev 0x5400#16 = some 0x53#8 := by decide

/-- The row rules: a machine with each space rule. -/
theorem witness_row_rules : State.reset.spaceRule = .absorb ∧ (decAt .immediate [] 0 0#2 0x0000#16 0#4).spaceRule = .immediate := by
  decide

/-- PutAppendsThenWritesTheSlot: both cases. -/
theorem witness_put : (encAt [] 0 0#2 []).enc.cur = 0#2 ∧ (encAt [] 0 1#2 [0x01#8]).enc.cur ≠ 0#2 ∧
    (encAt [] 0 1#2 [0x01#8]).enc.out = [] ++ [0x01#8] ∧
    (after (exec (.put 0b10#2) (encAt [] 0 1#2 [0x01#8]))).enc.out = [0x09#8] := by decide

/-- EncCharPutsOrRaises: a supported and an unsupported code. -/
theorem witness_enc_char :
    (encAt [0x61#8, 0x21#8] 0 0#2 []).enc.status = .run ∧ (encAt [0x61#8, 0x21#8] 0 0#2 []).enc.text[0]? = some 0x61#8 ∧
    fwd (foldCode 0x61#8) = some [0b01#2, 0b10#2] ∧
    (encAt [0x61#8, 0x21#8] 1 3#2 [0x09#8]).enc.text[1]? = some 0x21#8 ∧ fwd (foldCode 0x21#8) = none := by decide

/-- EncDoneEndsThePass: a text read to its end, and the empty one. -/
theorem witness_enc_done :
    (encAt [0x41#8] 1 3#2 [0x09#8]).enc.status = .run ∧
    (encAt [0x41#8] 1 3#2 [0x09#8]).enc.idx = (encAt [0x41#8] 1 3#2 [0x09#8]).enc.text.length ∧
    (encAt [] 0 0#2 []).enc.idx = (encAt [] 0 0#2 []).enc.text.length := by decide

/-- EncodeGivesTheClosedForm, RoundTripUnderImmediate: a text with a stream, and the empty one. -/
theorem witness_stream : streamOf [0x41#8, 0x20#8] = some [0b01#2, 0b10#2, 0b00#2, 0b00#2] ∧ streamOf [] = some [] ∧
    (decAt .immediate [] 0 0#2 0x0000#16 0#4).spaceRule = .immediate := by decide

/-- EncodeFaultsAtTheFirstUnsupported. -/
theorem witness_unsupported : (∀ x ∈ ([0x41#8, 0x20#8] : Buffer), supported x = true) ∧ supported 0x80#8 = false ∧
    (after (exec (.encode [0x41#8, 0x20#8, 0x80#8]) State.reset)).enc.status = .fault ⟨2, 0x80#8⟩ := by decide

/-- PlaceOrsTheSymbolIntoThePosition at k = 7, OperandOutsidePlaceIsRefused at k = 8. -/
theorem witness_place : (7#4 : BitVec 4).toNat < 8 ∧ 6 < 8 ∧ 6 ≠ (7#4 : BitVec 4).toNat ∧ 8 ≤ (8#4 : BitVec 4).toNat ∧
    exec (.place 0x0000#16 8#4 0b01#2) State.reset = .refused .operandOutOfRange :=
  ⟨by decide, by decide, by decide, by decide, rfl⟩

/-- SymbolsAccumulateSaturateOrOverflow: the three cases, at the last position, at eight Ends and at a ninth symbol. -/
theorem witness_accumulate :
    (decAt .absorb [0x55#8, 0x55#8] 1 3#2 0x5554#16 7#4).dec.status = .run ∧
    terminatesUnder .absorb 0b01#2 0x5554#16 = false ∧ (7#4 : BitVec 4).toNat < 8 ∧
    (after (exec .symDit (decAt .absorb [0x55#8, 0x55#8] 1 3#2 0x5554#16 7#4))).dec.acc = 0x5555#16 ∧
    terminatesUnder .absorb 0b00#2 0x0000#16 = false ∧
    (after (exec .symEnd (decAt .absorb [0x00#8] 0 0#2 0x0000#16 8#4))).dec.cur = 1#2 ∧
    (after (exec .symDah (decAt .absorb [0x02#8] 0 0#2 0x0000#16 8#4))).dec.status = .fault ⟨.overflow, 0x0000#16, 0⟩ := by decide

/-- SymEndEmitsOrRaisesNoMatch: a word with a row, a word without, and the word 0 under IMMEDIATE. -/
theorem witness_sym_end :
    (decAt .absorb [0x15#8] 0 3#2 0x5400#16 3#4).dec.status = .run ∧
    terminatesUnder .absorb 0b00#2 0x5400#16 = true ∧ rev 0x5400#16 = some 0x53#8 ∧
    terminatesUnder .absorb 0b00#2 0xC000#16 = true ∧ rev 0xC000#16 = none ∧
    terminatesUnder .immediate 0b00#2 0x0000#16 = true ∧ rev 0x0000#16 = some 0x20#8 := by decide

/-- DecSymRunsTheSymbolInTheSlot: a byte with the four values in its slots. -/
theorem witness_dec_sym :
    (decAt .absorb [0xE4#8] 0 0#2 0x0000#16 0#4).dec.status = .run ∧
    (decAt .absorb [0xE4#8] 0 0#2 0x0000#16 0#4).dec.inp[0]? = some 0xE4#8 ∧
    slotOf 0xE4#8 (0#2 : Cursor).toNat = 0b00#2 ∧ slotOf 0xE4#8 (1#2 : Cursor).toNat = 0b01#2 ∧
    slotOf 0xE4#8 (2#2 : Cursor).toNat = 0b10#2 ∧ slotOf 0xE4#8 (3#2 : Cursor).toNat = 0b11#2 := by decide

/-- The three statements of DEC_EOS. -/
theorem witness_dec_eos :
    (decAt .absorb [0x15#8] 1 0#2 0x0000#16 0#4).dec.status = .run ∧
    (decAt .absorb [0x15#8] 1 0#2 0x0000#16 0#4).dec.ptr = (decAt .absorb [0x15#8] 1 0#2 0x0000#16 0#4).dec.inp.length ∧
    0 < (8#4 : BitVec 4).toNat ∧
    (after (exec .decEos (decAt .absorb [0x00#8, 0x00#8] 2 0#2 0x0000#16 8#4))).dec.out = [0x20#8] ∧
    (0x5500#16 : CodeWord) ≠ 0x0000#16 ∧ ((4#4 : BitVec 4) = 0#4 → (0x5500#16 : CodeWord) = 0x0000#16) ∧
    (after (exec .decEos (decAt .absorb [0x55#8] 1 0#2 0x5500#16 4#4))).dec.status = .fault ⟨.truncated, 0x5500#16, 4⟩ := by decide

/-- DecodeIsTotal: two states with the same SPACE_RULE and different DECs, one of them after a fault. -/
theorem witness_same_rule :
    (decAt .absorb [] 0 0#2 0x0000#16 0#4).spaceRule = (after (exec (.decode [0x03#8]) State.reset)).spaceRule ∧
    (decAt .absorb [] 0 0#2 0x0000#16 0#4).dec ≠ (after (exec (.decode [0x03#8]) State.reset)).dec ∧
    (after (exec (.decode [0x16#8]) (after (exec (.decode [0x03#8]) State.reset)))).ret = .decoded (.ok [0x44#8]) := by decide

/-- DecodeIsTheIterationOfItsSteps: a fault of each kind, and one that stays whatever follows. -/
theorem witness_earliest_fault :
    (after (exec (.decode [0x03#8]) State.reset)).dec.status = .fault ⟨.noMatch, 0xC000#16, 1⟩ ∧
    (after (exec (.decode [0x03#8, 0x15#8]) State.reset)).dec.status = .fault ⟨.noMatch, 0xC000#16, 1⟩ ∧
    (after (exec (.decode [0x55#8]) State.reset)).dec.status = .fault ⟨.truncated, 0x5500#16, 4⟩ := by decide

/-- R211: from an ended pass the machine goes on only with a new one. -/
theorem test_no_call_no_step : step (idle []) = .fault .noStepEnabled := rfl

/-- RoundTripUnderAbsorb, its hypotheses and the premise of each of the four cases: `A B`, `SOS`, `E`, `SOS` and a space. -/
theorem witness_round_trip :
    (∀ c ∈ ([0x61#8, 0x20#8, 0x42#8] : Buffer), supported c = true) ∧
    upperText [0x61#8, 0x20#8, 0x42#8] = [0x41#8, 0x20#8, 0x42#8] ++ spaces 0 ∧
    ([0x41#8, 0x20#8, 0x42#8] : Buffer).getLast? ≠ some 0x20#8 ∧ 0x20#8 ∈ ([0x41#8, 0x20#8, 0x42#8] : Buffer) ∧
    (streamOf [0x41#8, 0x20#8, 0x42#8]).isSome = true ∧
    0x20#8 ∉ ([0x53#8, 0x4F#8, 0x53#8] : Buffer) ∧ (streamOf [0x53#8, 0x4F#8, 0x53#8]).map (fun q => q.length % 4) = some 0 ∧
    (streamOf [0x45#8]).map (fun q => q.length % 4) = some 2 ∧
    upperText [0x53#8, 0x4F#8, 0x53#8, 0x20#8] = [0x53#8, 0x4F#8, 0x53#8] ++ spaces 1 := by decide

/-- SpaceBeforeACharacterDoesNotDecode: both cases where they meet, 3 + 5 symbols and 4 + 5. -/
theorem witness_space_before :
    (Dec.start []).status = .run ∧ (Dec.start []).acc = 0x0000#16 ∧ (Dec.start []).k = 0#4 ∧
    (∀ x ∈ row5.seq, x ≠ 0b00#2) ∧ row5.seq ≠ [] ∧ 3 + row5.seq.length ≤ 8 ∧ 8 < 4 + row5.seq.length := by decide

/-- ReservedValueNeverDecodes: 11 in the last slot. -/
theorem witness_reserved : 0b11#2 ∈ slotsOf [0x15#8, 0xC0#8] := by decide

/-- EncodeGivesBackTheDecodedWord, DecodeReadsWhatEncodeWrites: a folded code and a code word. -/
theorem witness_encoding : decode .charCode8 0x61 = .instr (.charA .enc) ∧ encode (.charA .enc) = some (.charCode8, 0x41) ∧
    decode .codeWord16 0x6000 = .instr (.charA .dec) ∧ (Instr.charA .dec).wellFormed = true ∧
    encode (.charA .dec) = some (.codeWord16, 0x6000) := by decide

/-- StepRunsTheDecodedInstruction: each of its cases. -/
theorem witness_step :
    (encAt [0x61#8] 0 0#2 []).mover = some .enc ∧ (encAt [0x61#8] 0 0#2 []).enc.text[0]? = some 0x61#8 ∧
    (decAt .absorb [0x15#8] 0 2#2 0x5000#16 2#4).mover = some .dec ∧
    terminatesUnder .absorb (slotOf 0x15#8 2) 0x5000#16 = false ∧ decode .symbol2 (slotOf 0x15#8 2).toNat = .instr .symDit ∧
    terminatesUnder .absorb (slotOf 0x15#8 3) 0x5400#16 = true ∧ decode .codeWord16 0x5400 = .instr (.charS .dec) ∧
    (idle [.encode [0x41#8]]).mover = none ∧ (after (step (idle [.encode [0x41#8]]))).ret = .encoded (.ok [0x09#8]) ∧
    (idle [.decode [0x16#8]]).mover = none ∧ (after (step (idle [.decode [0x16#8]]))).ret = .decoded (.ok [0x44#8]) ∧
    (idle []).mover = none := by decide

/-- StepIsTheEnabledStepOfTheSpec: an unsupported character, the end of a text, a slot, the end of an input. -/
theorem witness_enabled :
    (encAt [0x21#8] 0 0#2 []).mover = some .enc ∧ (encAt [] 0 0#2 []).mover = some .enc ∧
    (after (step (encAt [0x21#8] 0 0#2 []))).enc.status = .fault ⟨0, 0x21#8⟩ ∧
    (decAt .absorb [] 0 0#2 0x0000#16 0#4).mover = some .dec := by decide

/-- PointersAdvanceByOne, EveryInstructionWritesOneUnitOnly, UnitsDoNotObserveEachOther: instructions that complete, one of
each unit and one of none. -/
theorem witness_next :
    goesOn (exec .encChar (encAt [0x41#8] 0 0#2 [])) = true ∧ unitOf .encChar ≠ some .dec ∧ unitOf .encChar ≠ none ∧
    goesOn (exec .decSym (decAt .absorb [0x15#8] 0 3#2 0x5400#16 3#4)) = true ∧ unitOf .decSym ≠ some .enc ∧
    goesOn (exec .encDone State.reset) = true ∧ goesOn (exec .decEos State.reset) = true ∧
    goesOn (exec (.read 0x15#8 0#2) State.reset) = true ∧ unitOf (.read 0x15#8 0#2) = none := by decide

/-- EndedPassHasNoStep: a unit at DONE and one at FAULT. -/
theorem witness_ended : (idle []).enc.status ≠ .run ∧ (idle []).dec.status ≠ .run ∧
    ((Dec.start []).raise ⟨.noMatch, 0xC000#16, 1⟩).status ≠ .run ∧
    goesOn (step (idle [.decode [0x15#8]])) = true ∧ goesOn (step (decAt .absorb [0x15#8] 0 0#2 0x0000#16 0#4)) = true ∧
    (decAt .absorb [0x15#8] 0 0#2 0x0000#16 0#4).enc.status ≠ .run := by decide

/-- RaisingChangesTheStatusOnly: a step of each unit that raises. -/
theorem witness_raise :
    (encAt [0x21#8] 0 0#2 []).enc.status = .run ∧
    (after (exec .encChar (encAt [0x21#8] 0 0#2 []))).enc.status = .fault ⟨0, 0x21#8⟩ ∧
    (decAt .absorb [0x03#8] 0 1#2 0xC000#16 1#4).dec.status = .run ∧
    (after (exec .decSym (decAt .absorb [0x03#8] 0 1#2 0xC000#16 1#4))).dec.status = .fault ⟨.noMatch, 0xC000#16, 1⟩ := by decide

/-- StreamFormsArePrefixFree. -/
theorem witness_prefix : rowE ∈ table ∧ (rowE.seq ++ [0b00#2]) <+: (rowE.seq ++ [0b00#2]) ∧
    ¬ (rowE.seq ++ [0b00#2]) <+: (rowA.seq ++ [0b00#2]) := by decide

/-- UnmatchedCodeWordsHaveNoRow: a word of each family. -/
theorem witness_unmatched : positionOf 0xC000#16 0 = 0b11#2 ∧
    (positionOf 0x2540#16 0 = 0b00#2 ∧ (0x2540#16 : CodeWord) ≠ 0x0000#16) ∧ positionOf 0x5554#16 6 ≠ 0b00#2 ∧
    positionOf 0x5555#16 7 ≠ 0b00#2 ∧
    (positionOf 0x4400#16 0 ≠ 0b00#2 ∧ positionOf 0x4400#16 1 = 0b00#2 ∧ positionOf 0x4400#16 2 ≠ 0b00#2) := by decide

/-- EncodeIsInjectiveWithoutPadding: `SOS` and its lower-case form. -/
theorem witness_injective :
    (streamOf [0x53#8, 0x4F#8, 0x53#8]).map (fun q => q.length % 4) = some 0 ∧
    (streamOf [0x73#8, 0x6F#8, 0x53#8]).map (fun q => q.length % 4) = some 0 ∧
    (after (exec (.encode [0x73#8, 0x6F#8, 0x53#8]) State.reset)).ret = .encoded (.ok [0x15#8, 0x2A#8, 0x15#8]) := by decide

/-- MachineInvariantIsKept, RunningUnitIsNeverStuck: both units in the middle of a pass, and the step from there. -/
def midRun : State :=
  { State.reset with
    enc := { text := [0x41#8, 0x42#8], idx := 1, cur := 3#2, out := [0x09#8], status := .run }
    dec := { inp := [0x15#8], ptr := 0, cur := 2#2, acc := 0x5000#16, k := 2#4, out := [0x45#8], status := .run } }

theorem witness_inv : midRun.Inv ∧ midRun.enc.status = .run ∧ goesOn (step midRun) = true := by
  refine ⟨⟨⟨by decide, by decide, trivial⟩, ⟨by decide, by decide, ?_, by decide, by decide, by decide, by decide, trivial⟩⟩,
    by decide, by decide⟩
  intro j h1 h2
  have h1' : 2 ≤ j := h1
  have h2' : j < 8 := h2
  interval_cases j <;> decide

end Sys2Proof.Tests
end

/-! PROOFS. The state of the two units (spec/10_state.md): what an instruction that completes can do, said once for every
instruction; from it the frame of the instructions, the independence of the units, and the machine's invariant. -/

namespace Sys2Proof.Machine

open Config

/-! ## What an instruction that completes can do -/

/-- How an instruction other than ENCODE takes ENC from `e` to its next value, in terms of ENC alone (R10). -/
inductive Enc.Moves (i : Instr) (e : Enc) : Enc → Prop where
  | row {r : Row} {e' : Enc} (hi : ∀ s, exec i s = runRow r .enc s) (hE : e.charEnabled = true)
      (he : e.putChar r.seq = some e') : Moves i e e'
  | put {v : Sym} {e' : Enc} (hi : i = .put v) (he : e.put v = some e') : Moves i e e'
  | char {raw : Byte} {e' : Enc} (hi : i = .encChar) (hE : e.charEnabled = true)
      (hraw : memRead e.text e.idx = some raw) (he : e.charStep raw = some e') : Moves i e e'
  | done (hi : i = .encDone) (hE : e.doneEnabled = true) : Moves i e e.finish

/-- How an instruction other than DECODE takes DEC from `d` to its next value, in terms of DEC and SPACE_RULE alone (R10). -/
inductive Dec.Moves (r : SpaceRule) (i : Instr) (d : Dec) : Dec → Prop where
  | row {row : Row} (hrow : row ∈ table) (hi : ∀ s, exec i s = runRow row .dec s) (hE : d.symEnabled = true) :
      Moves r i d (d.advance.emit row.code)
  | symbol {v : Sym} (hi : ∀ s, exec i s = runSymbol v s) (hE : d.symEnabled = true) : Moves r i d (d.onSymbol r v)
  | decSym {b : Byte} (hi : i = .decSym) (hE : d.symEnabled = true) (hb : memRead d.inp d.ptr = some b) :
      Moves r i d (d.onSymbol r (readSlot b d.cur))
  | decEos (hi : i = .decEos) (hE : d.eosEnabled = true) : Moves r i d d.atEnd

/-- The next states of an instruction: it returns a value, moves one unit, or runs a whole pass of one. -/
inductive Completes (i : Instr) (s : State) : State → Prop where
  | value {v : Returned} (hu : unitOf i = none)
      (hi : ∀ s' : State, s'.spaceRule = s.spaceRule → exec i s' = .next (s'.returning v)) : Completes i s (s.returning v)
  | enc {e : Enc} (hu : unitOf i = some .enc) (hm : s.enc.Moves i e) : Completes i s { s with enc := e }
  | dec {d : Dec} (hu : unitOf i = some .dec) (hm : s.dec.Moves s.spaceRule i d) : Completes i s (s.setDec d)
  | encode {x : Buffer} {e : Enc} (hi : i = .encode x) (he : Enc.pass x = some e) :
      Completes i s ({ s with enc := e }.returning (.encoded e.result))
  | decode {x : Buffer} (hi : i = .decode x) :
      Completes i s ((s.setDec (Dec.pass s.spaceRule x)).returning (.decoded (Dec.pass s.spaceRule x).result))

theorem State.setEnc_eq_next_iff {s t : State} {o : Option Enc} :
    s.setEnc o = .next t ↔ ∃ e, o = some e ∧ t = { s with enc := e } :=
  ⟨State.setEnc_eq_next, by rintro ⟨e, rfl, rfl⟩; rfl⟩

theorem exec_encChar_eq_next_iff {s t : State} :
    exec .encChar s = .next t ↔ s.enc.charEnabled = true ∧
      ∃ raw e, memRead s.enc.text s.enc.idx = some raw ∧ s.enc.charStep raw = some e ∧ t = { s with enc := e } := by
  simp only [exec, execEncChar]
  split
  · next hE =>
    cases hraw : memRead s.enc.text s.enc.idx with
    | none => simp
    | some raw => simp [State.setEnc_eq_next_iff, hE]
  · next hE => simp [hE]

theorem exec_encDone_eq_next_iff {s t : State} :
    exec .encDone s = .next t ↔ s.enc.doneEnabled = true ∧ t = { s with enc := s.enc.finish } := by
  simp only [exec, execEncDone]
  split
  · next hE => simp [State.setEnc_eq_next_iff, hE]
  · next hE => simp [hE]

theorem exec_decSym_eq_next_iff {s t : State} :
    exec .decSym s = .next t ↔ s.dec.symEnabled = true ∧
      ∃ b, memRead s.dec.inp s.dec.ptr = some b ∧ t = s.setDec (s.dec.onSymbol s.spaceRule (readSlot b s.dec.cur)) := by
  simp only [exec, execDecSym]
  split
  · next hE =>
    cases hb : memRead s.dec.inp s.dec.ptr with
    | none => simp
    | some b => simp [hE, eq_comm]
  · next hE => simp [hE]

theorem exec_decEos_eq_next_iff {s t : State} :
    exec .decEos s = .next t ↔ s.dec.eosEnabled = true ∧ t = s.setDec s.dec.atEnd := by
  simp only [exec, execDecEos]
  split
  · next hE => simp [hE, eq_comm]
  · next hE => simp [hE]

theorem exec_encode_eq_next_iff {x : Buffer} {s t : State} :
    exec (.encode x) s = .next t ↔
      ∃ e, Enc.pass x = some e ∧ t = { s with enc := e }.returning (.encoded e.result) := by
  simp only [exec, execEncode]
  cases Enc.pass x with
  | none => simp
  | some e => simp [eq_comm]

theorem exec_place_eq_next_iff {acc : CodeWord} {k : BitVec 4} {v : Sym} {s t : State} :
    exec (.place acc k v) s = .next t ↔
      placeOperandOk k = true ∧ t = s.returning (.codeWord (placeSym acc k v)) := by
  simp only [exec, execPlace]
  split
  · next hk => simp [hk, eq_comm]
  · next hk => simp [hk]

theorem runRow_enc_eq_next_iff {r : Row} {s t : State} :
    runRow r .enc s = .next t ↔
      s.enc.charEnabled = true ∧ ∃ e, s.enc.putChar r.seq = some e ∧ t = { s with enc := e } := by
  simp only [runRow]
  split
  · next hE => simp [State.setEnc_eq_next_iff, hE]
  · next hE => simp [hE]

theorem runRow_dec_eq_next_iff {r : Row} {s t : State} :
    runRow r .dec s = .next t ↔ s.dec.symEnabled = true ∧ t = s.setDec (s.dec.advance.emit r.code) := by
  simp only [runRow]
  split
  · next hE => simp [hE, eq_comm]
  · next hE => simp [hE]

theorem runSymbol_eq_next_iff {v : Sym} {s t : State} :
    runSymbol v s = .next t ↔ s.dec.symEnabled = true ∧ t = s.setDec (s.dec.onSymbol s.spaceRule v) :=
  ⟨runSymbol_eq_next, by rintro ⟨hE, rfl⟩; simp [runSymbol, hE]⟩

/-- An instruction that completes does one of the things that `Completes` lists. -/
theorem completes_of_exec {i : Instr} {s t : State} (h : exec i s = .next t) : Completes i s t := by
  cases shape_of i with
  | row r u hr hi hu =>
    rw [hi] at h
    cases u with
    | enc =>
      obtain ⟨hE, e, he, rfl⟩ := runRow_enc_eq_next_iff.1 h
      exact .enc hu (.row hi hE he)
    | dec =>
      obtain ⟨hE, rfl⟩ := runRow_dec_eq_next_iff.1 h
      exact .dec hu (.row hr hi hE)
  | symbol v hi hu =>
    rw [hi] at h
    obtain ⟨hE, rfl⟩ := runSymbol_eq_next_iff.1 h
    exact .dec hu (.symbol hi hE)
  | value f hi hu =>
    rw [hi] at h
    obtain rfl := Host.Outcome.next.inj h
    exact .value hu fun s' hs => by rw [hi, hs]
  | place acc k v hi =>
    subst hi
    obtain ⟨hk, rfl⟩ := exec_place_eq_next_iff.1 h
    exact .value rfl fun s' _ => exec_place_eq_next_iff.2 ⟨hk, rfl⟩
  | put v hi =>
    subst hi
    obtain ⟨e, he, rfl⟩ := State.setEnc_eq_next h
    exact .enc rfl (.put rfl he)
  | encChar hi =>
    subst hi
    obtain ⟨hE, raw, e, hraw, he, rfl⟩ := exec_encChar_eq_next_iff.1 h
    exact .enc rfl (.char rfl hE hraw he)
  | encDone hi =>
    subst hi
    obtain ⟨hE, rfl⟩ := exec_encDone_eq_next_iff.1 h
    exact .enc rfl (.done rfl hE)
  | encode x hi =>
    subst hi
    obtain ⟨e, he, rfl⟩ := exec_encode_eq_next_iff.1 h
    exact .encode rfl he
  | decSym hi =>
    subst hi
    obtain ⟨hE, b, hb, rfl⟩ := exec_decSym_eq_next_iff.1 h
    exact .dec rfl (.decSym rfl hE hb)
  | decEos hi =>
    subst hi
    obtain ⟨hE, rfl⟩ := exec_decEos_eq_next_iff.1 h
    exact .dec rfl (.decEos rfl hE)
  | decode x hi =>
    subst hi
    obtain rfl := Host.Outcome.next.inj h
    exact .decode rfl

/-- What moves ENC by itself moves it in any state that holds it. -/
theorem Enc.Moves.exec_eq {i : Instr} {s : State} {e : Enc} (h : s.enc.Moves i e) :
    exec i s = .next { s with enc := e } := by
  cases h with
  | row hi hE he => rw [hi]; exact runRow_enc_eq_next_iff.2 ⟨hE, _, he, rfl⟩
  | put hi he => subst hi; exact State.setEnc_eq_next_iff.2 ⟨_, he, rfl⟩
  | char hi hE hraw he => subst hi; exact exec_encChar_eq_next_iff.2 ⟨hE, _, _, hraw, he, rfl⟩
  | done hi hE => subst hi; exact exec_encDone_eq_next_iff.2 ⟨hE, rfl⟩

/-- What moves DEC by itself moves it in any state that holds it under the same SPACE_RULE. -/
theorem Dec.Moves.exec_eq {i : Instr} {s : State} {d : Dec} (h : s.dec.Moves s.spaceRule i d) :
    exec i s = .next (s.setDec d) := by
  cases h with
  | row hrow hi hE => rw [hi]; exact runRow_dec_eq_next_iff.2 ⟨hE, rfl⟩
  | symbol hi hE => rw [hi]; exact runSymbol_eq_next_iff.2 ⟨hE, rfl⟩
  | decSym hi hE hb => subst hi; exact exec_decSym_eq_next_iff.2 ⟨hE, _, hb, rfl⟩
  | decEos hi hE => subst hi; exact exec_decEos_eq_next_iff.2 ⟨hE, rfl⟩

theorem exec_eq_next_iff {i : Instr} {s t : State} : exec i s = .next t ↔ Completes i s t := by
  refine ⟨completes_of_exec, fun h => ?_⟩
  cases h with
  | value _ hi => exact hi s rfl
  | enc _ hm => exact hm.exec_eq
  | dec _ hm => exact hm.exec_eq
  | encode hi he => subst hi; exact exec_encode_eq_next_iff.2 ⟨_, he, rfl⟩
  | decode hi => subst hi; rfl

/-! ## The frame of the instructions -/

/-- No instruction but ENCODE writes ENC.text (R12). -/
theorem Enc.Moves.text_eq {i : Instr} {e e' : Enc} (h : e.Moves i e') : e'.text = e.text := by
  cases h with
  | row _ _ he => obtain ⟨_, _, rfl⟩ := Enc.putChar_eq_some he; rfl
  | put _ he => rw [(Enc.put_eq_some he).1]
  | char _ _ _ he => exact Enc.charStep_text he
  | done => rfl

/-- No instruction but DECODE writes DEC.in (R18). -/
theorem Dec.Moves.inp_eq {r : SpaceRule} {i : Instr} {d d' : Dec} (h : d.Moves r i d') : d'.inp = d.inp := by
  cases h with
  | row => rfl
  | symbol => exact Dec.onSymbol_inp ..
  | decSym => exact Dec.onSymbol_inp ..
  | decEos => exact Dec.atEnd_inp ..

theorem exec_keeps_enc {i : Instr} {s t : State} (hu : unitOf i ≠ some .enc) (h : exec i s = .next t) : t.enc = s.enc := by
  cases exec_eq_next_iff.1 h with
  | value => rfl
  | enc hu' => exact absurd hu' hu
  | dec => rfl
  | encode hi => subst hi; exact absurd rfl hu
  | decode => rfl

theorem exec_keeps_dec {i : Instr} {s t : State} (hu : unitOf i ≠ some .dec) (h : exec i s = .next t) : t.dec = s.dec := by
  cases exec_eq_next_iff.1 h with
  | value => rfl
  | enc => rfl
  | dec hu' => exact absurd hu' hu
  | encode => rfl
  | decode hi => subst hi; exact absurd rfl hu

/-- No instruction writes SPACE_RULE (R28), the selection or the host's calls. -/
theorem exec_keeps_control {i : Instr} {s t : State} (h : exec i s = .next t) :
    t.spaceRule = s.spaceRule ∧ t.sel = s.sel ∧ t.calls = s.calls := by
  cases exec_eq_next_iff.1 h <;> exact ⟨rfl, rfl, rfl⟩

/-- Settles O53, by the cases of what an instruction that completes can do. -/
theorem everyInstructionWritesOneUnitOnly : Obligations.EveryInstructionWritesOneUnitOnly := by
  intro i s t h
  obtain ⟨hrule, hsel, hcalls⟩ := exec_keeps_control h
  refine ⟨fun hu => exec_keeps_enc hu h, fun hu => exec_keeps_dec hu h, hrule, hsel, hcalls, ?_⟩
  cases exec_eq_next_iff.1 h with
  | value hu => exact ⟨fun _ => rfl, fun _ => rfl, fun hu' => absurd hu hu'⟩
  | enc _ hm => exact ⟨fun _ => hm.text_eq, fun _ => rfl, fun _ _ _ => rfl⟩
  | dec _ hm => exact ⟨fun _ => rfl, fun _ => hm.inp_eq, fun _ _ _ => rfl⟩
  | encode hi => exact ⟨fun hx => absurd hi (hx _), fun _ => rfl, fun _ hx _ => absurd hi (hx _)⟩
  | decode hi => exact ⟨fun _ => rfl, fun hx => absurd hi (hx _), fun _ _ hx => absurd hi (hx _)⟩

/-! ## The units do not observe each other -/

/-- Settles O54: what an instruction does is written in terms of its own unit, so it does the same beside any other unit. -/
theorem unitsDoNotObserveEachOther : Obligations.UnitsDoNotObserveEachOther := by
  constructor
  · intro i s t d hu h
    refine exec_eq_next_iff.2 ?_
    cases exec_eq_next_iff.1 h with
    | value hu' hi => exact .value (s := { s with dec := d }) hu' hi
    | enc hu' hm => exact .enc (s := { s with dec := d }) hu' hm
    | dec hu' => exact absurd hu' hu
    | encode hi he => exact .encode (s := { s with dec := d }) hi he
    | decode hi => subst hi; exact absurd rfl hu
  · intro i s t e hu h
    refine exec_eq_next_iff.2 ?_
    cases exec_eq_next_iff.1 h with
    | value hu' hi => exact .value (s := { s with enc := e }) hu' hi
    | enc hu' => exact absurd hu' hu
    | dec hu' hm => exact .dec (s := { s with enc := e }) hu' hm
    | encode hi => subst hi; exact absurd rfl hu
    | decode hi => exact .decode (s := { s with enc := e }) hi

/-! ## The sequencing pointers -/

/-- Settles O52, from what each of the four steps can do (R27). -/
theorem pointersAdvanceByOne : Obligations.PointersAdvanceByOne := by
  refine ⟨fun s t h => ?_, fun s t h => ?_, fun s t h => ?_, fun s t h => ?_⟩
  · obtain ⟨_, raw, e, _, he, rfl⟩ := exec_encChar_eq_next_iff.1 h
    rcases Enc.charStep_cases he with ⟨_, rfl⟩ | ⟨q, p, _, _, rfl⟩
    · exact .inr ⟨_, rfl⟩
    · exact .inl rfl
  · obtain ⟨_, b, _, rfl⟩ := exec_decSym_eq_next_iff.1 h
    have hadv := s.dec.advance_symbolIndex
    rcases Dec.onSymbol_cases s.spaceRule s.dec (readSlot b s.dec.cur) with
      ⟨_, ch, _, hd⟩ | ⟨_, _, hd⟩ | ⟨_, _, hd⟩ | ⟨_, _, _, hd⟩ | ⟨_, _, _, hd⟩ <;> rw [hd]
    · exact .inl hadv
    · exact .inr ⟨_, rfl⟩
    · exact .inl hadv
    · exact .inl hadv
    · exact .inr ⟨_, rfl⟩
  · obtain ⟨_, rfl⟩ := exec_encDone_eq_next_iff.1 h
    rfl
  · obtain ⟨_, rfl⟩ := exec_decEos_eq_next_iff.1 h
    rcases s.dec.atEnd_cases with ⟨_, hd⟩ | ⟨_, _, hd⟩ | ⟨_, _, hd⟩ <;> rw [hd] <;> exact ⟨rfl, rfl⟩

/-! ## The step of the machine -/

/-- A step is the instruction that the moving unit's input holds, or, with no unit in RUN, the pass the host asks for. -/
theorem step_eq_next {s t : State} (h : step s = .next t) :
    (∃ u, s.mover = some u ∧ step s = exec (s.fetchOf u) s) ∨
    ∃ c rest, s.mover = none ∧ s.calls = c :: rest ∧ step s = exec (callInstr c) { s with calls := rest } := by
  unfold step at h ⊢
  split at h
  · next i s' hf =>
    rcases fetch_eq_some hf with ⟨u, hu, rfl, rfl⟩ | ⟨c, rest, hu, hc, rfl, rfl⟩
    · exact .inl ⟨u, hu, rfl⟩
    · exact .inr ⟨c, rest, hu, hc, rfl⟩
  · cases h

/-- The unit that moves is in RUN. -/
theorem State.running_of_mover {s : State} {u : UnitId} (h : s.mover = some u) : s.running u = true := by
  unfold State.mover at h
  split at h
  · next hr => obtain rfl := Option.some.inj h; exact hr
  · split at h
    · next hr => obtain rfl := Option.some.inj h; exact hr
    · cases h

theorem State.enc_status_of_mover {s : State} (h : s.mover = some .enc) : s.enc.status = .run := by
  simpa [State.running] using State.running_of_mover h

theorem State.dec_status_of_mover {s : State} (h : s.mover = some .dec) : s.dec.status = .run := by
  simpa [State.running] using State.running_of_mover h

/-- The instruction of a table row, used by a unit, is that unit's. -/
theorem unitOf_row : ∀ e ∈ instrRows, ∀ u : UnitId, unitOf (e.2 u) = some u := by
  intro e he u
  cases u with
  | enc => revert e; decide
  | dec => revert e; decide

theorem unitOf_decodeSymbol (v : Sym) : unitOf (decodeSymbol v) = some .dec := by
  revert v; decide

/-- What a unit's input holds is an instruction of that unit. -/
theorem unitOf_fetchOf (s : State) (u : UnitId) : unitOf (s.fetchOf u) = some u := by
  cases u with
  | enc =>
    simp only [State.fetchOf, fetchEnc]
    split
    · rfl
    · next raw _ =>
      rcases decodeCharCode_eq raw with ⟨row, mk, hmem, _, hd, _⟩ | ⟨hd, _⟩ <;> rw [hd]
      · exact unitOf_row _ hmem .enc
      · rfl
  | dec =>
    simp only [State.fetchOf, fetchDec]
    split
    · rfl
    · next b _ =>
      split
      · rcases decodeCodeWord_eq s.dec.acc with ⟨row, mk, hmem, _, hd, _⟩ | ⟨hd, _⟩ <;> rw [hd]
        · exact unitOf_row _ hmem .dec
        · exact unitOf_decodeSymbol _
      · exact unitOf_decodeSymbol _

/-! ## An ended pass -/

theorem Enc.charEnabled_eq_false {e : Enc} (h : e.status ≠ .run) : e.charEnabled = false :=
  eq_false_of_ne_true fun hE => h (e.charEnabled_iff.1 hE).1

theorem Enc.doneEnabled_eq_false {e : Enc} (h : e.status ≠ .run) : e.doneEnabled = false :=
  eq_false_of_ne_true fun hE => h (e.doneEnabled_iff.1 hE).1

theorem Dec.symEnabled_eq_false {d : Dec} (h : d.status ≠ .run) : d.symEnabled = false :=
  eq_false_of_ne_true fun hE => h (d.symEnabled_iff.1 hE).1

theorem Dec.eosEnabled_eq_false {d : Dec} (h : d.status ≠ .run) : d.eosEnabled = false :=
  eq_false_of_ne_true fun hE => h (d.eosEnabled_iff.1 hE).1

/-- In DONE and FAULT no step of ENC is enabled (R17). -/
theorem exec_enc_of_ended {s : State} (h : s.enc.status ≠ .run) :
    exec .encChar s = .fault .notEnabled ∧ exec .encDone s = .fault .notEnabled ∧
      ∀ r ∈ instrRows, exec (r.2 .enc) s = .fault .notEnabled := by
  have hC := Enc.charEnabled_eq_false h
  refine ⟨by simp [exec, execEncChar, hC], by simp [exec, execEncDone, Enc.doneEnabled_eq_false h], fun r hr => ?_⟩
  simp [exec_of_row r hr, runRow, hC]

theorem runSymbol_of_ended {s : State} (h : s.dec.status ≠ .run) (v : Sym) : runSymbol v s = .fault .notEnabled := by
  simp [runSymbol, Dec.symEnabled_eq_false h]

/-- In DONE and FAULT no step of DEC is enabled (R25). -/
theorem exec_dec_of_ended {s : State} (h : s.dec.status ≠ .run) :
    exec .decSym s = .fault .notEnabled ∧ exec .decEos s = .fault .notEnabled ∧
      exec .symEnd s = .fault .notEnabled ∧ exec .symDit s = .fault .notEnabled ∧
      exec .symDah s = .fault .notEnabled ∧ exec .symReserved s = .fault .notEnabled ∧
      ∀ r ∈ instrRows, exec (r.2 .dec) s = .fault .notEnabled := by
  have hS := Dec.symEnabled_eq_false h
  refine ⟨by simp [exec, execDecSym, hS], by simp [exec, execDecEos, Dec.eosEnabled_eq_false h],
    runSymbol_of_ended h _, runSymbol_of_ended h _, runSymbol_of_ended h _, runSymbol_of_ended h _, fun r hr => ?_⟩
  simp [exec_of_row r hr, runRow, hS]

/-- A step changes an ENC that is not in RUN by the start of a new pass only (R206, R211). -/
theorem step_of_enc_ended {s t : State} (hE : s.enc.status ≠ .run) (h : step s = .next t) :
    t.enc = s.enc ∨
      ∃ text rest, s.calls = .encode text :: rest ∧ step s = exec (.encode text) { s with calls := rest } := by
  rcases step_eq_next h with ⟨u, hu, hs⟩ | ⟨c, rest, _, hc, hs⟩
  · cases u with
    | enc => exact absurd (State.enc_status_of_mover hu) hE
    | dec => exact .inl (exec_keeps_enc (by simp [unitOf_fetchOf]) (hs.symm.trans h))
  · cases c with
    | encode text => exact .inr ⟨text, rest, hc, hs⟩
    | decode bytes =>
      have hu : unitOf (.decode bytes) ≠ some .enc := by simp [unitOf]
      exact .inl (exec_keeps_enc (s := { s with calls := rest }) hu (hs.symm.trans h))

/-- A step changes a DEC that is not in RUN by the start of a new pass only (R206, R211). -/
theorem step_of_dec_ended {s t : State} (hD : s.dec.status ≠ .run) (h : step s = .next t) :
    t.dec = s.dec ∨
      ∃ bytes rest, s.calls = .decode bytes :: rest ∧ step s = exec (.decode bytes) { s with calls := rest } := by
  rcases step_eq_next h with ⟨u, hu, hs⟩ | ⟨c, rest, _, hc, hs⟩
  · cases u with
    | enc => exact .inl (exec_keeps_dec (by simp [unitOf_fetchOf]) (hs.symm.trans h))
    | dec => exact absurd (State.dec_status_of_mover hu) hD
  · cases c with
    | encode text =>
      have hu : unitOf (.encode text) ≠ some .dec := by simp [unitOf]
      exact .inl (exec_keeps_dec (s := { s with calls := rest }) hu (hs.symm.trans h))
    | decode bytes => exact .inr ⟨bytes, rest, hc, hs⟩

/-- Settles O55: the enabling conditions need RUN, and the frame of the other unit's instructions does the rest. -/
theorem endedPassHasNoStep : Obligations.EndedPassHasNoStep :=
  ⟨fun _ h => exec_enc_of_ended h, fun _ h => exec_dec_of_ended h,
    fun _ _ hE h => step_of_enc_ended hE h, fun _ _ hD h => step_of_dec_ended hD h⟩

/-! ## The invariant of ENC -/

theorem Enc.statusMatches_of_run {e : Enc} (h : e.status = .run) : e.StatusMatches := by
  simp [Enc.StatusMatches, h]

theorem Enc.start_inv (x : Buffer) : (Enc.start x).Inv :=
  ⟨Nat.zero_le _, rfl, Enc.statusMatches_of_run rfl⟩

/-- PUT keeps the invariant, in every status: it writes neither the index nor the status (R154). -/
theorem Enc.put_keeps_inv {e e' : Enc} {v : Sym} (hi : e.Inv) (h : e.put v = some e') : e'.Inv := by
  have hw := Enc.put_keeps_wf hi.packed h
  have he := (Enc.put_eq_some h).1
  rw [he]
  rw [he] at hw
  exact ⟨hi.idx_le, hw, hi.status_matches⟩

/-- Below the end of the text, PUTs and the index step keep the invariant (R156). -/
theorem Enc.Inv.after_puts {e p : Enc} {q : List Sym} (hi : e.Inv) (hE : e.charEnabled = true) (hp : e.puts q = some p) :
    Enc.Inv { e with idx := e.idx + 1, cur := p.cur, out := p.out } := by
  obtain ⟨hrun, hlt⟩ := e.charEnabled_iff.1 hE
  have hw : Memory.wf p.out p.cur = true := Enc.puts_keep_wf hi.packed hp
  exact ⟨hlt, hw, Enc.statusMatches_of_run hrun⟩

theorem Enc.putChar_keeps_inv {e e' : Enc} {q : List Sym} (hi : e.Inv) (hE : e.charEnabled = true)
    (h : e.putChar q = some e') : e'.Inv := by
  obtain ⟨p, hp, rfl⟩ := Enc.putChar_eq_some h
  exact hi.after_puts hE hp

/-- ENC_CHAR keeps the invariant; what it raises records the character it met (R156, R201). -/
theorem Enc.charStep_keeps_inv {e e' : Enc} {raw : Byte} (hi : e.Inv) (hE : e.charEnabled = true)
    (hraw : memRead e.text e.idx = some raw) (h : e.charStep raw = some e') : e'.Inv := by
  rcases Enc.charStep_cases h with ⟨hf, rfl⟩ | ⟨q, p, _, hp, rfl⟩
  · have hns : supported raw = false := by simp [supported, hf]
    exact ⟨hi.idx_le, hi.packed, rfl, hraw, hns⟩
  · exact hi.after_puts hE hp

/-- ENC_DONE keeps the invariant: it ends the pass at the end of the text (R157). -/
theorem Enc.finish_keeps_inv {e : Enc} (hi : e.Inv) (hend : e.idx = e.text.length) : e.finish.Inv :=
  ⟨hi.idx_le, hi.packed, hend⟩

theorem Enc.Moves.keeps_inv {i : Instr} {e e' : Enc} (h : e.Moves i e') (hi : e.Inv) : e'.Inv := by
  cases h with
  | row _ hE he => exact Enc.putChar_keeps_inv hi hE he
  | put _ he => exact Enc.put_keeps_inv hi he
  | char _ hE hraw he => exact Enc.charStep_keeps_inv hi hE hraw he
  | done _ hE => exact Enc.finish_keeps_inv hi (e.doneEnabled_iff.1 hE).2

theorem Enc.turn_keeps_inv {e e' : Enc} (hi : e.Inv) (hrun : e.status = .run) (h : e.turn = some e') : e'.Inv := by
  by_cases hlt : e.idx < e.text.length
  · have hraw : e.text[e.idx]? = some e.text[e.idx] := List.getElem?_eq_getElem hlt
    rw [Enc.turn_below hraw] at h
    exact Enc.charStep_keeps_inv hi (e.charEnabled_iff.2 ⟨hrun, hlt⟩) hraw h
  · have hge : e.text.length ≤ e.idx := Nat.le_of_not_lt hlt
    rw [Enc.turn_at_end hge] at h
    obtain rfl := Option.some.inj h
    exact Enc.finish_keeps_inv hi (Nat.le_antisymm hi.idx_le hge)

/-- Whatever a pass of ENC ends in has the invariant (R158). -/
theorem Enc.pass_inv {x : Buffer} {e : Enc} (h : Enc.pass x = some e) : e.Inv :=
  Enc.loop_keeps Enc.Inv (fun _ _ hi hrun ht => Enc.turn_keeps_inv hi hrun ht) _ _ _ (Enc.start_inv x) h

/-! ## The positions of a code word -/

/-- PLACE writes no position but the one it names (R173). -/
theorem positionOf_placeSym_other (acc : CodeWord) {k : BitVec 4} (v : Sym) {j : Nat} (hk : k.toNat < 8) (hj : j < 8)
    (hne : j ≠ k.toNat) : positionOf (placeSym acc k v) j = positionOf acc j := by
  apply BitVec.eq_of_getLsbD_eq
  intro b hb
  have hout : 14 - 2 * j + b < 14 - 2 * k.toNat ∨ 2 ≤ 14 - 2 * j + b - (14 - 2 * k.toNat) := by omega
  rcases hout with hlow | hhigh
  · simp [positionOf, placeSym, hlow]
  · simp [positionOf, placeSym, BitVec.getLsbD_of_ge v _ hhigh]

/-- PLACE ORs the symbol into the position it names (R173). -/
theorem positionOf_placeSym_same (acc : CodeWord) {k : BitVec 4} (v : Sym) (hk : k.toNat < 8) :
    positionOf (placeSym acc k v) k.toNat = positionOf acc k.toNat ||| v := by
  apply BitVec.eq_of_getLsbD_eq
  intro b hb
  have hpos : 14 - 2 * k.toNat + b < 16 := by omega
  simp [positionOf, placeSym, hb, hpos]

theorem positionOf_zero (j : Nat) : positionOf 0x0000#16 j = symEnd := by
  simp [positionOf, symEnd]

/-! ## The invariant of DEC -/

theorem Dec.statusMatches_of_run {d : Dec} (h : d.status = .run) : d.StatusMatches := by
  simp [Dec.StatusMatches, h]

theorem Dec.advance_ptr_le {d : Dec} {n : Nat} (h : d.ptr < n) : d.advance.ptr ≤ n := by
  rw [Dec.advance_ptr]
  split <;> omega

/-- The pointer reaches the end of the input only as the cursor wraps (R23 d, R176). -/
theorem Dec.advance_cur_eq_zero {d : Dec} (h : d.ptr < d.advance.ptr) : d.advance.cur = 0#2 := by
  rw [Dec.advance_ptr] at h
  split at h
  · next hc => exact (nextCursor_eq_zero d.cur).2 hc
  · exact absurd h (Nat.lt_irrefl _)

theorem Dec.start_inv (r : SpaceRule) (x : Buffer) : (Dec.start x).Inv r where
  count_le := Nat.zero_le _
  boundary _ := rfl
  unused j _ _ := positionOf_zero j
  ptr_le := Nat.zero_le _
  cur_at_end _ := rfl
  immediate _ hk := absurd rfl hk
  codes _ hc := absurd hc List.not_mem_nil
  status_matches := Dec.statusMatches_of_run rfl

/-- Raising keeps the invariant where the fault records the code word (R202, R204). -/
theorem Dec.raise_keeps_inv {r : SpaceRule} {d : Dec} {info : MalformedCode} (hi : d.Inv r) (hw : info.word = d.acc) :
    (d.raise info).Inv r :=
  { hi with status_matches := hw }

/-- Reading a symbol keeps the invariant (R176). -/
theorem Dec.advance_keeps_inv {r : SpaceRule} {d : Dec} (hi : d.Inv r) (hE : d.symEnabled = true) : d.advance.Inv r := by
  obtain ⟨hrun, hlt⟩ := d.symEnabled_iff.1 hE
  exact { hi with
    ptr_le := Dec.advance_ptr_le hlt
    cur_at_end := fun hp => Dec.advance_cur_eq_zero (hp ▸ hlt)
    status_matches := Dec.statusMatches_of_run hrun }

/-- A code of the table may be appended to the output (R24). -/
theorem Dec.Inv.codes_append {r : SpaceRule} {d : Dec} {row : Row} (hi : d.Inv r) (hrow : row ∈ table) :
    ∀ c ∈ d.out ++ [row.code], ∃ row' ∈ table, row'.code = c := by
  intro c hc
  rw [List.mem_append, List.mem_singleton] at hc
  rcases hc with hc | rfl
  · exact hi.codes c hc
  · exact ⟨row, hrow, rfl⟩

/-- EMIT of a code of the table keeps the invariant (R178, R24). -/
theorem Dec.emit_keeps_inv {r : SpaceRule} {d : Dec} {row : Row} (hi : d.Inv r) (hrun : d.status = .run)
    (hrow : row ∈ table) :
    (d.emit row.code).Inv r where
  count_le := Nat.zero_le _
  boundary _ := rfl
  unused j _ _ := positionOf_zero j
  ptr_le := hi.ptr_le
  cur_at_end := hi.cur_at_end
  immediate _ hk := absurd rfl hk
  codes := hi.codes_append hrow
  status_matches := Dec.statusMatches_of_run hrun

/-- Under IMMEDIATE a symbol that does not terminate is placed so that position 0 is not `00` (R23 e, R185). -/
theorem Dec.Inv.place_first_position {r : SpaceRule} {d : Dec} {v : Sym} (hi : d.Inv r) (hr : r = .immediate)
    (ht : terminatesUnder r v d.acc = false) (hk : d.k.toNat < 8) : positionOf (placeSym d.acc d.k v) 0 ≠ symEnd := by
  by_cases hk0 : d.k = 0#4
  · have hv : v ≠ symEnd := by simpa [hr, terminatesUnder] using ht
    have hn : d.k.toNat = 0 := by simp [hk0]
    have hsame := positionOf_placeSym_same d.acc v hk
    rw [hn, hi.boundary hk0, positionOf_zero] at hsame
    rw [hi.boundary hk0, hsame]
    simpa [symEnd] using hv
  · have hpos : 0 ≠ d.k.toNat := fun h => hk0 (BitVec.eq_of_toNat_eq h.symm)
    rw [positionOf_placeSym_other d.acc v hk (by decide) hpos]
    exact (hi.immediate hr hk0).2

/-- ACCUMULATE keeps the invariant (R180 a). -/
theorem Dec.accumulate_keeps_inv {r : SpaceRule} {d : Dec} {v : Sym} (hi : d.Inv r)
    (hrun : d.status = .run) (ht : terminatesUnder r v d.acc = false) (hk : d.k.toNat < cwSlots) :
    Dec.Inv r { d with acc := placeSym d.acc d.k v, k := d.k + 1#4 } := by
  have hk8 : d.k.toNat < 8 := hk
  have hcount : (d.k + 1#4).toNat = d.k.toNat + 1 := by bv_omega
  exact {
    count_le := by simp only [hcount]; exact hk
    boundary := fun h0 => absurd (hcount.symm.trans (congrArg BitVec.toNat h0)) (Nat.succ_ne_zero _)
    unused := fun j hj hj8 => by
      simp only [hcount] at hj
      rw [positionOf_placeSym_other d.acc v hk8 hj8 (by omega)]
      exact hi.unused j (by omega) hj8
    ptr_le := hi.ptr_le
    cur_at_end := hi.cur_at_end
    immediate := fun hr _ => by
      have hfirst := hi.place_first_position hr ht hk8
      refine ⟨fun h0 => hfirst ?_, hfirst⟩
      rw [show placeSym d.acc d.k v = 0x0000#16 from h0, positionOf_zero]
    codes := hi.codes
    status_matches := Dec.statusMatches_of_run hrun }

/-- DEC_SYM keeps the invariant, whichever of its five cases happens (R177). -/
theorem Dec.onSymbol_keeps_inv {r : SpaceRule} {d : Dec} (v : Sym) (hi : d.Inv r) (hE : d.symEnabled = true) :
    (d.onSymbol r v).Inv r := by
  have hadv : d.advance.Inv r := Dec.advance_keeps_inv hi hE
  have hrun : d.advance.status = .run := (d.symEnabled_iff.1 hE).1
  rcases Dec.onSymbol_cases r d v with
    ⟨_, ch, hrev, hd⟩ | ⟨_, _, hd⟩ | ⟨ht, hk, hd⟩ | ⟨_, _, _, hd⟩ | ⟨_, _, _, hd⟩ <;> rw [hd]
  · obtain ⟨row, hrow, _, rfl⟩ := rev_eq_some hrev
    exact Dec.emit_keeps_inv hadv hrun hrow
  · exact Dec.raise_keeps_inv hi rfl
  · exact Dec.accumulate_keeps_inv hadv hrun ht hk
  · exact hadv
  · exact Dec.raise_keeps_inv hi rfl

/-- DEC_EOS keeps the invariant; the space it may append is a row of the table (R181 to R183). -/
theorem Dec.atEnd_keeps_inv {r : SpaceRule} {d : Dec} (hi : d.Inv r) (hend : d.ptr = d.inp.length) : d.atEnd.Inv r := by
  rcases d.atEnd_cases with ⟨_, hd⟩ | ⟨_, _, hd⟩ | ⟨_, _, hd⟩ <;> rw [hd]
  · exact { hi with status_matches := hend }
  · have hspace : rowSpace ∈ table := by decide
    exact { hi with codes := hi.codes_append hspace, status_matches := hend }
  · exact Dec.raise_keeps_inv hi rfl

theorem Dec.Moves.keeps_inv {r : SpaceRule} {i : Instr} {d d' : Dec} (h : d.Moves r i d') (hi : d.Inv r) : d'.Inv r := by
  cases h with
  | row hrow _ hE => exact Dec.emit_keeps_inv (Dec.advance_keeps_inv hi hE) (d.symEnabled_iff.1 hE).1 hrow
  | symbol _ hE => exact Dec.onSymbol_keeps_inv _ hi hE
  | decSym _ hE _ => exact Dec.onSymbol_keeps_inv _ hi hE
  | decEos _ hE => exact Dec.atEnd_keeps_inv hi (d.eosEnabled_iff.1 hE).2

theorem Dec.turn_keeps_inv {r : SpaceRule} {d : Dec} (hi : d.Inv r) (hrun : d.status = .run) : (d.turn r).Inv r := by
  by_cases hlt : d.ptr < d.inp.length
  · rw [Dec.turn_below r (List.getElem?_eq_getElem hlt)]
    exact Dec.onSymbol_keeps_inv _ hi (d.symEnabled_iff.2 ⟨hrun, hlt⟩)
  · have hge : d.inp.length ≤ d.ptr := Nat.le_of_not_lt hlt
    rw [Dec.turn_at_end r hge]
    exact Dec.atEnd_keeps_inv hi (Nat.le_antisymm hi.ptr_le hge)

/-- Whatever a pass of DEC ends in has the invariant (R184). -/
theorem Dec.pass_inv (r : SpaceRule) (x : Buffer) : (Dec.pass r x).Inv r :=
  Dec.loop_keeps r (Dec.Inv r) (fun _ hi hrun => Dec.turn_keeps_inv hi hrun) _ _ (Dec.start_inv r x)

/-! ## The invariant of the machine -/

/-- Every instruction keeps the invariant, in every state that has it. -/
theorem exec_keeps_inv {i : Instr} {s t : State} (hi : s.Inv) (h : exec i s = .next t) : t.Inv := by
  cases exec_eq_next_iff.1 h with
  | value => exact ⟨hi.enc, hi.dec⟩
  | enc _ hm => exact ⟨hm.keeps_inv hi.enc, hi.dec⟩
  | dec _ hm => exact ⟨hi.enc, hm.keeps_inv hi.dec⟩
  | encode _ he => exact ⟨Enc.pass_inv he, hi.dec⟩
  | decode => exact ⟨hi.enc, Dec.pass_inv _ _⟩

/-- Settles O43: a step runs an instruction, in the state itself or in that state with the host's call taken. -/
theorem machineInvariantIsKept : Obligations.MachineInvariantIsKept := by
  intro s t hi h
  rcases step_eq_next h with ⟨u, _, hs⟩ | ⟨c, rest, _, _, hs⟩
  · exact exec_keeps_inv hi (hs.symm.trans h)
  · exact exec_keeps_inv (s := { s with calls := rest }) ⟨hi.enc, hi.dec⟩ (hs.symm.trans h)

/-- Settles O44: both units are at the start of a pass (R29, R220). -/
theorem resetHasTheInvariant : Obligations.ResetHasTheInvariant :=
  ⟨Enc.start_inv [], Dec.start_inv _ []⟩

end Sys2Proof.Machine

/-! PROOFS. The encodings (spec/30_encoding.md): the values of bytes and code words field by field, the keys of the table's
rows, decode and encode as inverses of each other, and the instruction that a step runs. -/

namespace Sys2Proof.Machine

open Config

/-! ## The slots of a byte (R38, R53) -/

theorem slotOf_toNat (b : Byte) (i : Nat) : (slotOf b i).toNat = b.toNat / 2 ^ (2 * i) % 4 := by
  simp [slotOf, BitVec.extractLsb'_toNat, Nat.shiftRight_eq_div_pow]

/-- A byte is the sum of its slots, slot 0 least significant (R53). -/
theorem byte_toNat_eq_slots (b : Byte) :
    b.toNat = (slotOf b 0).toNat + 4 * (slotOf b 1).toNat + 16 * (slotOf b 2).toNat + 64 * (slotOf b 3).toNat := by
  have hb := b.isLt
  simp only [slotOf_toNat]
  omega

/-- Each slot of the byte of four symbols is the symbol put there. -/
theorem slotOf_byteOf (s0 s1 s2 s3 : Sym) :
    slotOf (byteOf s0 s1 s2 s3) 0 = s0 ∧ slotOf (byteOf s0 s1 s2 s3) 1 = s1 ∧
      slotOf (byteOf s0 s1 s2 s3) 2 = s2 ∧ slotOf (byteOf s0 s1 s2 s3) 3 = s3 := by
  refine ⟨?_, ?_, ?_, ?_⟩ <;>
  · apply BitVec.eq_of_getLsbD_eq
    intro n hn
    have hbit : n = 0 ∨ n = 1 := by omega
    rcases hbit with rfl | rfl <;> simp [slotOf, byteOf]

/-- The byte of a byte's slots is that byte. -/
theorem byteOf_slotOf (b : Byte) : byteOf (slotOf b 0) (slotOf b 1) (slotOf b 2) (slotOf b 3) = b := by
  apply BitVec.eq_of_toNat_eq
  obtain ⟨h0, h1, h2, h3⟩ := slotOf_byteOf (slotOf b 0) (slotOf b 1) (slotOf b 2) (slotOf b 3)
  rw [byte_toNat_eq_slots (byteOf _ _ _ _), h0, h1, h2, h3, ← byte_toNat_eq_slots]

/-! ## The positions of a code word (R56, R57) -/

theorem positionOf_or (v w : CodeWord) (j : Nat) : positionOf (v ||| w) j = positionOf v j ||| positionOf w j :=
  BitVec.extractLsb'_or

theorem positionOf_shifted_same (v : Sym) {j : Nat} (hj : j < 8) :
    positionOf (v.setWidth 16 <<< (14 - 2 * j)) j = v := by
  apply BitVec.eq_of_getLsbD_eq
  intro n hn
  have hpos : 14 - 2 * j + n < 16 := by omega
  simp [positionOf, hn, hpos]

theorem positionOf_shifted_other (v : Sym) {i j : Nat} (hi : i < 8) (hj : j < 8) (hne : j ≠ i) :
    positionOf (v.setWidth 16 <<< (14 - 2 * i)) j = symEnd := by
  apply BitVec.eq_of_getLsbD_eq
  intro n hn
  have hout : 14 - 2 * j + n < 14 - 2 * i ∨ 2 ≤ 14 - 2 * j + n - (14 - 2 * i) := by omega
  rcases hout with hlow | hhigh
  · simp [positionOf, symEnd, hlow]
  · simp [positionOf, symEnd, BitVec.getLsbD_of_ge v _ hhigh]

/-- The positions of a sequence's code word are the symbols of the sequence, then `00` (R57). -/
theorem positionOf_codeWordFrom (q : List Sym) {i j : Nat} (hq : i + q.length ≤ 8) (hj : j < 8) :
    positionOf (codeWordFrom i q) j = if i ≤ j then symAt q (j - i) else symEnd := by
  induction q generalizing i with
  | nil => simp [codeWordFrom, positionOf_zero, symAt]
  | cons v rest ih =>
    have hlen : i + 1 + rest.length ≤ 8 := by simpa [Nat.add_assoc, Nat.add_comm 1] using hq
    rw [codeWordFrom, positionOf_or, ih hlen]
    rcases Nat.lt_trichotomy j i with hlt | rfl | hgt
    · rw [positionOf_shifted_other v (by omega) hj (by omega), if_neg (by omega), if_neg (by omega)]
      rfl
    · rw [positionOf_shifted_same v hj, if_neg (by omega), if_pos le_rfl, Nat.sub_self]
      exact BitVec.or_zero
    · obtain ⟨n, rfl⟩ := Nat.exists_eq_add_of_lt hgt
      rw [positionOf_shifted_other v (by omega) hj (by omega), if_pos (by omega), if_pos (by omega),
        show i + n + 1 - (i + 1) = n by omega, show i + n + 1 - i = n + 1 by omega]
      exact BitVec.zero_or

theorem positionOf_codeWordOf {q : List Sym} (hq : q.length ≤ 8) {j : Nat} (hj : j < 8) :
    positionOf (codeWordOf q) j = symAt q j := by
  simpa [codeWordOf] using positionOf_codeWordFrom q (i := 0) (by omega) hj

/-- Bit `n` of a code word is a bit of the position that holds it (R56). -/
theorem getLsbD_eq_positionOf (w : CodeWord) {n : Nat} (hn : n < 16) :
    w.getLsbD n = (positionOf w (7 - n / 2)).getLsbD (n % 2) := by
  have hbit : 14 - 2 * (7 - n / 2) + n % 2 = n := by omega
  simp [positionOf, hbit, Nat.le_of_lt_succ (Nat.mod_lt n Nat.two_pos)]

/-- A code word is determined by its eight positions. -/
theorem codeWord_eq_of_positions {v w : CodeWord} (h : ∀ j < 8, positionOf v j = positionOf w j) : v = w := by
  apply BitVec.eq_of_getLsbD_eq
  intro n hn
  rw [getLsbD_eq_positionOf v hn, getLsbD_eq_positionOf w hn, h _ (by omega)]

/-- The code word of a code word's positions is that code word. -/
theorem codeWordOf_positionOf (w : CodeWord) :
    codeWordOf [positionOf w 0, positionOf w 1, positionOf w 2, positionOf w 3,
      positionOf w 4, positionOf w 5, positionOf w 6, positionOf w 7] = w := by
  apply codeWord_eq_of_positions
  intro j hj
  rw [positionOf_codeWordOf le_rfl hj]
  interval_cases j <;> rfl

/-- Position `j` of eight concatenated symbols is the `j`-th (R56). -/
theorem getLsbD_append_eight (p0 p1 p2 p3 p4 p5 p6 p7 : Sym) {j n : Nat} (hj : j < 8) (hn : n < 2) :
    (p0 ++ p1 ++ p2 ++ p3 ++ p4 ++ p5 ++ p6 ++ p7).getLsbD (14 - 2 * j + n) =
      (symAt [p0, p1, p2, p3, p4, p5, p6, p7] j).getLsbD n := by
  have hbit : n = 0 ∨ n = 1 := by omega
  rcases hbit with rfl | rfl <;> interval_cases j <;> (simp only [BitVec.getLsbD_append]; rfl)

/-- Position 0 is the most significant: the code word of eight symbols is their concatenation (R56, R57). -/
theorem codeWordOf_eq_append (p0 p1 p2 p3 p4 p5 p6 p7 : Sym) :
    codeWordOf [p0, p1, p2, p3, p4, p5, p6, p7] = p0 ++ p1 ++ p2 ++ p3 ++ p4 ++ p5 ++ p6 ++ p7 := by
  apply codeWord_eq_of_positions
  intro j hj
  apply BitVec.eq_of_getLsbD_eq
  intro n hn
  rw [positionOf_codeWordOf le_rfl hj, positionOf, BitVec.getLsbD_extractLsb', decide_eq_true hn, Bool.true_and]
  exact (getLsbD_append_eight p0 p1 p2 p3 p4 p5 p6 p7 hj hn).symm

/-! ## The rows of the table (R90 to R94) -/

/-- In a list whose keys are distinct, a search by key finds the element that has the key. -/
theorem find?_key_eq {α β : Type} [DecidableEq β] {l : List α} {key : α → β} (hd : (l.map key).Nodup) {a : α}
    (ha : a ∈ l) : l.find? (fun x => key x == key a) = some a := by
  cases hf : l.find? (fun x => key x == key a) with
  | none => simpa using List.find?_eq_none.1 hf a ha
  | some b =>
    have hkey : key b = key a := by simpa using List.find?_some hf
    rw [List.inj_on_of_nodup_map hd (List.mem_of_find?_eq_some hf) ha hkey]

theorem instrRows_codes_nodup : (instrRows.map (fun e => e.1.code)).Nodup := by decide

theorem instrRows_codeWords_nodup : (instrRows.map (fun e => codeWordOf e.1.seq)).Nodup := by decide

theorem table_codeWords_nodup : (table.map (fun row => codeWordOf row.seq)).Nodup := by
  simpa [table, Function.comp_def] using instrRows_codeWords_nodup

/-- Different rows have different sequences (R92). -/
theorem row_eq_of_seq_eq {r r' : Row} (hr : r ∈ table) (hr' : r' ∈ table) (h : r.seq = r'.seq) : r = r' :=
  List.inj_on_of_nodup_map table_codeWords_nodup hr hr' (congrArg codeWordOf h)

/-- The table holds upper-case codes, which FOLD leaves alone (R59). -/
theorem foldCode_of_row : ∀ e ∈ instrRows, foldCode e.1.code = e.1.code := by decide

theorem row_seq_length : ∀ row ∈ table, row.seq.length ≤ maxLen := by decide

/-- A row's sequence holds Dits and Dahs only (R90). -/
theorem row_seq_symbols : ∀ row ∈ table, ∀ v ∈ row.seq, v ≠ symEnd ∧ v ≠ rsv := by decide

/-- The positions of a row's code word: the `00` begin where the sequence ends (R57, R90). -/
theorem positionOf_row_eq_symEnd_iff {row : Row} (hrow : row ∈ table) {j : Nat} (hj : j < 8) :
    positionOf (codeWordOf row.seq) j = symEnd ↔ row.seq.length ≤ j := by
  have hlen : row.seq.length ≤ 6 := row_seq_length row hrow
  rw [positionOf_codeWordOf (by omega) hj]
  refine ⟨fun hend => ?_, List.getD_eq_default _ _⟩
  by_contra hlt
  rw [symAt, List.getD_eq_getElem _ _ (by omega)] at hend
  exact (row_seq_symbols row hrow _ (List.getElem_mem _)).1 hend

theorem positionOf_row_ne_rsv {row : Row} (hrow : row ∈ table) {j : Nat} (hj : j < 8) :
    positionOf (codeWordOf row.seq) j ≠ rsv := by
  by_cases hlen : row.seq.length ≤ j
  · rw [(positionOf_row_eq_symEnd_iff hrow hj).2 hlen]
    decide
  · have hmax : row.seq.length ≤ 6 := row_seq_length row hrow
    rw [positionOf_codeWordOf (by omega) hj, symAt, List.getD_eq_getElem _ _ (by omega)]
    exact (row_seq_symbols row hrow _ (List.getElem_mem _)).2

/-! ## Sequences with their End (R63) -/

/-- Between sequences without an End inside, a beginning that reaches the End is the whole. -/
theorem eq_of_streamForm_prefix {q q' : List Sym} (hq : symEnd ∉ q) (hq' : symEnd ∉ q')
    (h : streamForm q <+: streamForm q') : q = q' := by
  induction q generalizing q' with
  | nil =>
    cases q' with
    | nil => rfl
    | cons v' rest' =>
      have hv : symEnd = v' := (List.cons_prefix_cons.1 h).1
      exact absurd (hv ▸ List.mem_cons_self) hq'
  | cons v rest ih =>
    cases q' with
    | nil =>
      have hv : v = symEnd := (List.cons_prefix_cons.1 h).1
      exact absurd (hv ▸ List.mem_cons_self) hq
    | cons v' rest' =>
      obtain ⟨hv, hrest⟩ := List.cons_prefix_cons.1 h
      rw [hv, ih (List.not_mem_of_not_mem_cons hq) (List.not_mem_of_not_mem_cons hq') hrest]

/-! ## The decoder in each format -/

theorem decode_charCode8 (c : Byte) : decode .charCode8 c.toNat = decodeCharCode c := by
  simp [decode, Format.bits, c.isLt]

theorem decode_codeWord16 (w : CodeWord) : decode .codeWord16 w.toNat = decodeCodeWord w := by
  simp [decode, Format.bits, w.isLt]

theorem decode_symbol2 (v : Sym) : decode .symbol2 v.toNat = .instr (decodeSymbol v) := by
  simp [decode, Format.bits, v.isLt]

theorem decode_byte4x2 (b : Byte) : decode .byte4x2 b.toNat = .instr (decodeByte b) := by
  simp [decode, Format.bits, b.isLt]

theorem decode_layout16 (w : CodeWord) : decode .layout16 w.toNat = .instr (decodeLayout w) := by
  simp [decode, Format.bits, w.isLt]

/-- A number that decodes to an instruction fits in the format. -/
theorem lt_of_decode_eq_instr {f : Format} {w : Nat} {i : Instr} (h : decode f w = .instr i) : w < 2 ^ f.bits := by
  unfold decode at h
  split at h
  · assumption
  · cases h

/-- Both words of a row decode to its instruction, used by the unit whose key the word is (R60, R93). -/
theorem decode_of_encodeRow {e : Row × (UnitId → Instr)} (he : e ∈ instrRows) {u : UnitId} {f : Format} {w : Nat}
    (h : encodeRow e.1 u = (f, w)) : decode f w = .instr (e.2 u) := by
  cases u with
  | enc =>
    obtain ⟨rfl, rfl⟩ := Prod.mk.inj h
    rw [decode_charCode8, decodeCharCode, foldCode_of_row e he, find?_key_eq instrRows_codes_nodup he]
  | dec =>
    obtain ⟨rfl, rfl⟩ := Prod.mk.inj h
    rw [decode_codeWord16, decodeCodeWord, find?_key_eq instrRows_codeWords_nodup he]

/-! ## The encoder -/

theorem encode_of_row : ∀ e ∈ instrRows, ∀ u : UnitId, encode (e.2 u) = some (encodeRow e.1 u) := by
  intro e he u
  cases u with
  | enc => revert e; decide
  | dec => revert e; decide

theorem encode_decodeSymbol (v : Sym) : encode (decodeSymbol v) = some (.symbol2, v.toNat) := by
  revert v; decide

theorem encode_decodeByte (b : Byte) : encode (decodeByte b) = some (.byte4x2, b.toNat) := by
  rw [decodeByte, encode, byteOf_slotOf]

theorem encode_decodeLayout (w : CodeWord) : encode (decodeLayout w) = some (.layout16, w.toNat) := by
  rw [decodeLayout, encode, codeWordOf_positionOf]

theorem decodeByte_byteOf (s0 s1 s2 s3 : Sym) : decodeByte (byteOf s0 s1 s2 s3) = .byte s0 s1 s2 s3 := by
  obtain ⟨h0, h1, h2, h3⟩ := slotOf_byteOf s0 s1 s2 s3
  rw [decodeByte, h0, h1, h2, h3]

theorem decodeLayout_codeWordOf (p0 p1 p2 p3 p4 p5 p6 p7 : Sym) :
    decodeLayout (codeWordOf [p0, p1, p2, p3, p4, p5, p6, p7]) = .codeword p0 p1 p2 p3 p4 p5 p6 p7 := by
  have hpos (j : Nat) (hj : j < 8) := positionOf_codeWordOf (q := [p0, p1, p2, p3, p4, p5, p6, p7]) le_rfl hj
  simp [decodeLayout, hpos, symAt]

/-- The 16 operations, which have no opcode bits (R64). -/
def IsOperation (i : Instr) : Prop :=
  (∃ c, i = .shift c) ∨ (∃ c, i = .advance c) ∨ (∃ v b c, i = .write v b c) ∨ (∃ b c, i = .read b c) ∨
  (∃ c, i = .fold c) ∨ (∃ c, i = .fwd c) ∨ (∃ v, i = .put v) ∨ i = .encChar ∨ i = .encDone ∨
  (∃ x, i = .encode x) ∨ (∃ a k v, i = .place a k v) ∨ (∃ w, i = .rev w) ∨ (∃ v a, i = .terminates v a) ∨
  i = .decSym ∨ i = .decEos ∨ (∃ x, i = .decode x)

theorem encode_of_isOperation {i : Instr} (h : IsOperation i) : encode i = none := by
  rcases h with ⟨_, rfl⟩ | ⟨_, rfl⟩ | ⟨_, _, _, rfl⟩ | ⟨_, _, rfl⟩ | ⟨_, rfl⟩ | ⟨_, rfl⟩ | ⟨_, rfl⟩ | rfl | rfl |
    ⟨_, rfl⟩ | ⟨_, _, _, rfl⟩ | ⟨_, rfl⟩ | ⟨_, _, rfl⟩ | rfl | rfl | ⟨_, rfl⟩ <;> rfl

/-- Where the bits of an instruction come from (R60, R64). -/
inductive BitsOf (i : Instr) : Prop where
  | row (u : UnitId) (hi : i ∈ instrRows.map (fun e => e.2 u))
  | symbol (v : Sym) (hi : i = decodeSymbol v)
  | byte (s0 s1 s2 s3 : Sym) (hi : i = .byte s0 s1 s2 s3)
  | codeword (p0 p1 p2 p3 p4 p5 p6 p7 : Sym) (hi : i = .codeword p0 p1 p2 p3 p4 p5 p6 p7)
  | operation (hi : IsOperation i)

theorem bitsOf (i : Instr) : BitsOf i := by
  cases i
  case symEnd => exact .symbol symEnd rfl
  case symDit => exact .symbol dit rfl
  case symDah => exact .symbol dah rfl
  case symReserved => exact .symbol rsv rfl
  case byte => exact .byte _ _ _ _ rfl
  case codeword => exact .codeword _ _ _ _ _ _ _ _ rfl
  case shift | advance | write | read | fold | fwd | put | encChar | encDone | encode | place | rev | terminates |
      decSym | decEos | decode => exact .operation (by simp [IsOperation])
  all_goals next u => exact .row u (by simp [instrRows, letterRows, digitRows, markRows])

/-- Only the operations have no word (R64). -/
theorem encode_eq_none_iff (i : Instr) : encode i = none ↔ IsOperation i := by
  refine ⟨fun h => ?_, encode_of_isOperation⟩
  cases bitsOf i with
  | row u hi =>
    obtain ⟨e, he, rfl⟩ := List.mem_map.1 hi
    rw [encode_of_row e he u] at h
    cases h
  | symbol v hi => rw [hi, encode_decodeSymbol] at h; cases h
  | byte _ _ _ _ hi => rw [hi] at h; cases h
  | codeword _ _ _ _ _ _ _ _ hi => rw [hi] at h; cases h
  | operation hi => exact hi

/-- The decoder reads the word of an instruction as that instruction. -/
theorem decode_of_encode_eq_some {i : Instr} {f : Format} {w : Nat} (h : encode i = some (f, w)) :
    decode f w = .instr i := by
  cases bitsOf i with
  | row u hi =>
    obtain ⟨e, he, rfl⟩ := List.mem_map.1 hi
    exact decode_of_encodeRow he (Option.some.inj ((encode_of_row e he u).symm.trans h))
  | symbol v hi =>
    rw [hi, encode_decodeSymbol] at h
    obtain ⟨rfl, rfl⟩ := Prod.mk.inj (Option.some.inj h)
    rw [decode_symbol2, hi]
  | byte s0 s1 s2 s3 hi =>
    rw [hi] at h
    obtain ⟨rfl, rfl⟩ := Prod.mk.inj (Option.some.inj h)
    rw [decode_byte4x2, decodeByte_byteOf, hi]
  | codeword p0 p1 p2 p3 p4 p5 p6 p7 hi =>
    rw [hi] at h
    obtain ⟨rfl, rfl⟩ := Prod.mk.inj (Option.some.inj h)
    rw [decode_layout16, decodeLayout_codeWordOf, hi]
  | operation hi =>
    rw [encode_of_isOperation hi] at h
    cases h

/-- Settles O46, by the kinds of instruction that have bits and the operations, which have none. -/
theorem decodeReadsWhatEncodeWrites : Obligations.DecodeReadsWhatEncodeWrites :=
  ⟨fun _ _ _ _ h => decode_of_encode_eq_some h, encode_eq_none_iff⟩

/-- A number below `2 ^ n` is an `n`-bit word. -/
theorem exists_toNat_eq {n w : Nat} (h : w < 2 ^ n) : ∃ v : BitVec n, v.toNat = w :=
  ⟨BitVec.ofNatLT w h, BitVec.toNat_ofNatLT _ _⟩

/-- The word of the row that a character code decodes to is the folded code (R151, R152). -/
theorem encode_of_decodeCharCode {c : Byte} {i : Instr} (h : decodeCharCode c = .instr i) :
    encode i = some (.charCode8, (foldCode c).toNat) := by
  rcases decodeCharCode_eq c with ⟨row, mk, hmem, hcode, hd, _⟩ | ⟨hd, _⟩ <;> rw [hd] at h
  · obtain rfl := Decoded.instr.inj h
    rw [← hcode]
    exact encode_of_row _ hmem .enc
  · cases h

/-- The word of the row that a code word decodes to is that code word (R174). -/
theorem encode_of_decodeCodeWord {w : CodeWord} {i : Instr} (h : decodeCodeWord w = .instr i) :
    encode i = some (.codeWord16, w.toNat) := by
  rcases decodeCodeWord_eq w with ⟨row, mk, hmem, hword, hd, _⟩ | ⟨hd, _⟩ <;> rw [hd] at h
  · obtain rfl := Decoded.instr.inj h
    rw [← hword]
    exact encode_of_row _ hmem .dec
  · cases h

/-- Settles O47: in each format the word is found again, a character code through FOLD. -/
theorem encodeGivesBackTheDecodedWord : Obligations.EncodeGivesBackTheDecodedWord := by
  intro f w i h
  have hfits := lt_of_decode_eq_instr h
  cases f with
  | charCode8 =>
    obtain ⟨c, rfl⟩ := exists_toNat_eq (n := 8) hfits
    rw [decode_charCode8] at h
    exact ⟨fun hne => absurd rfl hne, fun _ => by simpa using encode_of_decodeCharCode h⟩
  | codeWord16 =>
    obtain ⟨v, rfl⟩ := exists_toNat_eq (n := 16) hfits
    rw [decode_codeWord16] at h
    exact ⟨fun _ => encode_of_decodeCodeWord h, nofun⟩
  | symbol2 =>
    obtain ⟨v, rfl⟩ := exists_toNat_eq (n := 2) hfits
    rw [decode_symbol2] at h
    obtain rfl := Decoded.instr.inj h
    exact ⟨fun _ => encode_decodeSymbol v, nofun⟩
  | byte4x2 =>
    obtain ⟨b, rfl⟩ := exists_toNat_eq (n := 8) hfits
    rw [decode_byte4x2] at h
    obtain rfl := Decoded.instr.inj h
    exact ⟨fun _ => encode_decodeByte b, nofun⟩
  | layout16 =>
    obtain ⟨v, rfl⟩ := exists_toNat_eq (n := 16) hfits
    rw [decode_layout16] at h
    obtain rfl := Decoded.instr.inj h
    exact ⟨fun _ => encode_decodeLayout v, nofun⟩

/-! ## Words without a row, and the layouts -/

/-- Settles O59: a row's code word holds Dits and Dahs in its first positions, at most six, and `00` in the others. -/
theorem unmatchedCodeWordsHaveNoRow : Obligations.UnmatchedCodeWordsHaveNoRow := by
  intro w s hfamily
  suffices hnone : rev w = none by simp [exec, execRev, hnone, State.returning]
  by_contra hsome
  obtain ⟨c, hc⟩ := Option.ne_none_iff_exists'.1 hsome
  obtain ⟨row, hrow, rfl, _⟩ := rev_eq_some hc
  have hend {j : Nat} (hj : j < 8) := positionOf_row_eq_symEnd_iff hrow hj
  have hmax : row.seq.length ≤ 6 := row_seq_length row hrow
  rcases hfamily with ⟨j, hj, hrsv⟩ | ⟨hne, h0⟩ | h6 | h7 | ⟨i, j, k, hij, hjk, hk, _, hgap, hafter⟩
  · exact positionOf_row_ne_rsv hrow hj hrsv
  · have hnil := List.length_eq_zero_iff.1 (Nat.le_zero.1 ((hend (by decide)).1 h0))
    exact hne (by rw [hnil]; rfl)
  · exact h6 ((hend (by decide)).2 hmax)
  · exact h7 ((hend (by decide)).2 (by omega))
  · have hlen := (hend (by omega)).1 hgap
    exact hafter ((hend hk).2 (by omega))

/-- Settles O6: the value is the byte, and the byte is the sum of its slots. -/
theorem byteHoldsFourSymbolsInStreamOrder : Obligations.ByteHoldsFourSymbolsInStreamOrder := by
  intro s0 s1 s2 s3 s
  obtain ⟨h0, h1, h2, h3⟩ := slotOf_byteOf s0 s1 s2 s3
  refine ⟨byteOf s0 s1 s2 s3, rfl, h0, h1, h2, h3, ?_⟩
  rw [byte_toNat_eq_slots (byteOf s0 s1 s2 s3), h0, h1, h2, h3]

/-- Settles O7: each position holds its symbol, and the word is the concatenation. -/
theorem codewordHoldsEightPositions : Obligations.CodewordHoldsEightPositions := by
  intro p0 p1 p2 p3 p4 p5 p6 p7 s
  have hpos {j : Nat} (hj : j < 8) := positionOf_codeWordOf (q := [p0, p1, p2, p3, p4, p5, p6, p7]) le_rfl hj
  exact ⟨codeWordOf [p0, p1, p2, p3, p4, p5, p6, p7], rfl, hpos (by decide), hpos (by decide), hpos (by decide),
    hpos (by decide), hpos (by decide), hpos (by decide), hpos (by decide), hpos (by decide),
    codeWordOf_eq_append p0 p1 p2 p3 p4 p5 p6 p7⟩

/-- Settles O58: no row's sequence holds an End, and rows with the same sequence are the same. -/
theorem streamFormsArePrefixFree : Obligations.StreamFormsArePrefixFree := by
  intro r hr r' hr' h
  have hnoEnd {row : Row} (hrow : row ∈ table) : symEnd ∉ row.seq := fun hmem => (row_seq_symbols row hrow _ hmem).1 rfl
  exact row_eq_of_seq_eq hr hr' (eq_of_streamForm_prefix (hnoEnd hr) (hnoEnd hr') h)

/-- Settles O48: the words of rows and layouts by what encode gives for them, the others by evaluation. -/
theorem sampleWordsDecode : Obligations.SampleWordsDecode :=
  ⟨decode_of_encode_eq_some rfl, decode_of_encode_eq_some rfl, decode_of_encode_eq_some rfl,
    decode_of_encode_eq_some rfl, decode_of_encode_eq_some rfl, decode_of_encode_eq_some rfl,
    decode_of_encode_eq_some rfl, decode_of_encode_eq_some rfl, decode_of_encode_eq_some rfl,
    decode_of_encode_eq_some rfl, by decide, by decide, by decide⟩

/-! ## What a step runs (R17, R25, R211, R222) -/

theorem step_of_mover {s : State} {u : UnitId} (h : s.mover = some u) : step s = exec (s.fetchOf u) s := by
  simp [step, fetch, h]

theorem step_of_call {s : State} {c : Call} {rest : List Call} (h : s.mover = none) (hc : s.calls = c :: rest) :
    step s = exec (callInstr c) { s with calls := rest } := by
  simp [step, fetch, h, hc]

theorem step_of_no_call {s : State} (h : s.mover = none) (hc : s.calls = []) : step s = .fault .noStepEnabled := by
  simp [step, fetch, h, hc]

theorem fetchEnc_of_decode {e : Enc} {c : Byte} {i : Instr} (hc : e.text[e.idx]? = some c)
    (hd : decodeCharCode c = .instr i) : fetchEnc e = i := by
  simp [fetchEnc, memRead, hc, hd]

/-- A symbol that does not terminate is DEC's instruction (R177). -/
theorem fetchDec_of_symbol {r : SpaceRule} {d : Dec} {b : Byte} (hb : d.inp[d.ptr]? = some b)
    (ht : terminatesUnder r (slotOf b d.cur.toNat) d.acc = false) :
    fetchDec r d = decodeSymbol (slotOf b d.cur.toNat) := by
  simp [fetchDec, memRead, hb, readSlot_eq_slotOf, ht]

/-- Where a character terminates, the row of the code word is DEC's instruction (R178). -/
theorem fetchDec_of_row {r : SpaceRule} {d : Dec} {b : Byte} {i : Instr} (hb : d.inp[d.ptr]? = some b)
    (ht : terminatesUnder r (slotOf b d.cur.toNat) d.acc = true) (hd : decodeCodeWord d.acc = .instr i) :
    fetchDec r d = i := by
  simp [fetchDec, memRead, hb, readSlot_eq_slotOf, ht, hd]

/-- Settles O49, one clause for each thing that a step can run. -/
theorem stepRunsTheDecodedInstruction : Obligations.StepRunsTheDecodedInstruction := by
  refine ⟨fun s c i hm hc hd => ?encChar, fun s b i hm hb ht hd => ?symbol, fun s b i hm hb ht hd => ?row,
    fun s text rest hm hc => step_of_call hm hc, fun s bytes rest hm hc => step_of_call hm hc,
    fun s hm hc => step_of_no_call hm hc⟩
  case encChar =>
    rw [decode_charCode8] at hd
    rw [step_of_mover hm, State.fetchOf, fetchEnc_of_decode hc hd]
  case symbol =>
    rw [decode_symbol2] at hd
    rw [step_of_mover hm, State.fetchOf, fetchDec_of_symbol hb ht, Decoded.instr.inj hd]
  case row =>
    rw [decode_codeWord16] at hd
    rw [step_of_mover hm, State.fetchOf, fetchDec_of_row hb ht hd]

end Sys2Proof.Machine

/-! PROOFS. The packing primitives (spec/40_cursor_primitives.md): the order of ADVANCE, what a written byte holds slot by
slot, and from these the rules of SHIFT, ADVANCE, WRITE and READ and the laws that connect them. -/

namespace Sys2Proof.Machine

/-! ## The order of the cursor (R72) -/

theorem nextCursor_iterate_toNat (n : Nat) (c : Cursor) : (nextCursor^[n] c).toNat = (c.toNat + n) % 4 := by
  induction n with
  | zero => exact (Nat.mod_eq_of_lt c.isLt).symm
  | succ n ih => rw [Function.iterate_succ_apply', nextCursor_toNat, ih]; omega

/-- ADVANCE comes back to where it started after each four applications, and not in between. -/
theorem nextCursor_iterate_eq_self_iff (n : Nat) (c : Cursor) : nextCursor^[n] c = c ↔ n % 4 = 0 := by
  have hc := c.isLt
  rw [← BitVec.toNat_inj, nextCursor_iterate_toNat]
  omega

theorem nextCursor_four (c : Cursor) : nextCursor (nextCursor (nextCursor (nextCursor c))) = c :=
  (nextCursor_iterate_eq_self_iff 4 c).2 rfl

/-- Three more applications undo one, so ADVANCE is one to one and onto. -/
theorem nextCursor_bijective : Function.Bijective nextCursor :=
  Function.bijective_iff_has_inverse.2 ⟨nextCursor^[3], nextCursor_four, nextCursor_four⟩

/-! ## A symbol shifted into a slot (R38) -/

theorem slotOf_or (a b : Byte) (i : Nat) : slotOf (a ||| b) i = slotOf a i ||| slotOf b i :=
  BitVec.extractLsb'_or

theorem slotOf_shifted_same (v : Sym) {i : Nat} (hi : i < 4) : slotOf (v.setWidth 8 <<< (2 * i)) i = v := by
  apply BitVec.eq_of_getLsbD_eq
  intro n hn
  have hbit : 2 * i + n < 8 := by omega
  simp [slotOf, hn, hbit]

theorem slotOf_shifted_other (v : Sym) {i j : Nat} (hij : i ≠ j) : slotOf (v.setWidth 8 <<< (2 * j)) i = 0b00#2 := by
  apply BitVec.eq_of_getLsbD_eq
  intro n hn
  have hout : 2 * i + n < 2 * j ∨ 2 ≤ 2 * i + n - 2 * j := by omega
  rcases hout with hbelow | habove
  · simp [slotOf, hbelow]
  · simp [slotOf, BitVec.getLsbD_of_ge v _ habove]

/-! ## WRITE (R74) -/

theorem writeSlot_eq_or (v : Sym) (b : Byte) (c : Cursor) :
    writeSlot v b c = b ||| (v.setWidth 8 <<< (2 * c.toNat)) := by
  rw [writeSlot, shiftOf_toNat]

theorem slotOf_writeSlot_same (v : Sym) (b : Byte) (c : Cursor) :
    slotOf (writeSlot v b c) c.toNat = slotOf b c.toNat ||| v := by
  rw [writeSlot_eq_or, slotOf_or, slotOf_shifted_same v c.isLt]

theorem slotOf_writeSlot_of_zero {v : Sym} {b : Byte} {c : Cursor} (h : slotOf b c.toNat = 0b00#2) :
    slotOf (writeSlot v b c) c.toNat = v := by
  rw [slotOf_writeSlot_same, h, BitVec.zero_or]

theorem slotOf_writeSlot_other (v : Sym) (b : Byte) {c : Cursor} {i : Nat} (h : i ≠ c.toNat) :
    slotOf (writeSlot v b c) i = slotOf b i := by
  rw [writeSlot_eq_or, slotOf_or, slotOf_shifted_other v h, BitVec.or_zero]

theorem writeSlot_end (b : Byte) (c : Cursor) : writeSlot 0b00#2 b c = b := by
  simp [writeSlot_eq_or]

theorem and_writeSlot (v : Sym) (b : Byte) (c : Cursor) : b &&& writeSlot v b c = b := by
  ext i hi
  simp +contextual [writeSlot_eq_or]

/-- Any two writes commute, into the same slot or not: both only OR bits in. -/
theorem writeSlot_comm (v w : Sym) (b : Byte) (c d : Cursor) :
    writeSlot v (writeSlot w b d) c = writeSlot w (writeSlot v b c) d := by
  simp only [writeSlot_eq_or]
  ac_rfl

/-- Four writes into a zero byte, one at each cursor, build the byte of R53. -/
theorem writeSlot_four_eq_byteOf (s0 s1 s2 s3 : Sym) :
    writeSlot s3 (writeSlot s2 (writeSlot s1 (writeSlot s0 0x00#8 0#2) 1#2) 2#2) 3#2 = byteOf s0 s1 s2 s3 := by
  simp [writeSlot_eq_or, byteOf]

/-! ## READ (R75) -/

/-- The four slots that READ gives make up the byte. -/
theorem byteOf_readSlot (b : Byte) :
    byteOf (readSlot b 0#2) (readSlot b 1#2) (readSlot b 2#2) (readSlot b 3#2) = b := by
  simp only [readSlot_eq_slotOf]
  exact byteOf_slotOf b

/-! ## The instructions and the laws that connect them (R71 to R76) -/

/-- Settles O1: twice a cursor is at most 6, so the 3-bit product does not wrap. -/
theorem shiftReturnsTwiceTheCursor : Obligations.ShiftReturnsTwiceTheCursor :=
  fun c _ => ⟨shiftOf c, rfl, shiftOf_toNat c⟩

/-- Settles O2: the 2-bit successor is the one modulo 4, and its order is 4. -/
theorem advanceReturnsTheNextCursor : Obligations.AdvanceReturnsTheNextCursor :=
  ⟨fun c _ => ⟨nextCursor c, rfl, nextCursor_toNat c⟩, nextCursor_four⟩

/-- Settles O3: the byte returned is `writeSlot`, whose lemmas are the corner cases. -/
theorem writeOrsTheSymbolIntoTheSlot : Obligations.WriteOrsTheSymbolIntoTheSlot := by
  intro v b c s
  refine ⟨writeSlot v b c, rfl, writeSlot_eq_or v b c, slotOf_writeSlot_same v b c, slotOf_writeSlot_of_zero,
    fun i _ hne => slotOf_writeSlot_other v b hne, ?noChangeByEnd, and_writeSlot v b c⟩
  case noChangeByEnd =>
    rintro rfl
    exact writeSlot_end b c

/-- Settles O4: what READ returns is the slot, and the slot's value is the quotient and remainder. -/
theorem readExtractsTheSlot : Obligations.ReadExtractsTheSlot := by
  intro b c s
  refine ⟨readSlot b c, rfl, readSlot_eq_slotOf b c, ?_⟩
  rw [readSlot_eq_slotOf, slotOf_toNat]

/-- Settles O5, law by law: READ is `slotOf`, so laws 1 to 3 are those of WRITE on the slots. -/
theorem primitiveLaws : Obligations.PrimitiveLaws := by
  refine ⟨fun b v c => ?readAfterWriteZero, fun b v c => ?readAfterWrite, fun b v c d hne => ?readOtherSlot,
    fun b v w c d => writeSlot_comm v w b c d, fun b => (byteOf_readSlot b).symm, writeSlot_four_eq_byteOf,
    nextCursor_bijective.injective, nextCursor_bijective.surjective, fun c => ⟨nextCursor_four c, ?notInBetween⟩⟩
  case readAfterWriteZero =>
    simp only [readSlot_eq_slotOf]
    exact slotOf_writeSlot_of_zero
  case readAfterWrite =>
    simp only [readSlot_eq_slotOf]
    exact slotOf_writeSlot_same v b c
  case readOtherSlot =>
    simp only [readSlot_eq_slotOf]
    exact slotOf_writeSlot_other v b (mt BitVec.eq_of_toNat_eq hne)
  case notInBetween =>
    have hreturn (n : Nat) := (nextCursor_iterate_eq_self_iff n c).1
    exact ⟨mt (hreturn 1) (by decide), mt (hreturn 2) (by decide), mt (hreturn 3) (by decide)⟩

end Sys2Proof.Machine

/-! PROOFS. The table's rows (spec/41_table_letters.md): the look-ups as membership in the table (R90 to R93), what a row does when
a unit runs it, the packed form of a symbol stream (R158), DEC's pass over a packed stream (R184), and from these the rule of each
row with its worked example. -/

namespace Sys2Proof.Machine

open Config Claims

/-! ## The table in both directions (R90 to R93) -/

theorem table_codes_nodup : (table.map Row.code).Nodup := by
  simpa [table, Function.comp_def] using instrRows_codes_nodup

theorem table_seqs_nodup : (table.map Row.seq).Nodup :=
  .of_map codeWordOf (by rw [List.map_map]; exact table_codeWords_nodup)

theorem fwd_of_row {row : Row} (h : row ∈ table) : fwd row.code = some row.seq := by
  rw [fwd, find?_key_eq table_codes_nodup h, Option.map_some]

theorem rev_of_row {row : Row} (h : row ∈ table) : rev (codeWordOf row.seq) = some row.code := by
  rw [rev, find?_key_eq table_codeWords_nodup h, Option.map_some]

/-- Settles O11: each look-up answers from a row, and of a row the other look-up gives back the key. -/
theorem tableDirectionsMirror : Obligations.TableDirectionsMirror := by
  refine ⟨fun c q h => ?forward, fun w c h => ?reverse⟩
  case forward =>
    obtain ⟨row, hrow, rfl, rfl⟩ := fwd_eq_some h
    exact rev_of_row hrow
  case reverse =>
    obtain ⟨row, hrow, rfl, rfl⟩ := rev_eq_some h
    exact ⟨row.seq, fwd_of_row hrow, rfl⟩

theorem row_seq_dit_or_dah {row : Row} (h : row ∈ table) {v : Sym} (hv : v ∈ row.seq) : v = dit ∨ v = dah := by
  have hsym : ∀ v : Sym, v ≠ symEnd ∧ v ≠ rsv → v = dit ∨ v = dah := by decide
  exact hsym v (row_seq_symbols row h v hv)

theorem row_seq_eq_nil_iff : ∀ row ∈ table, row.seq = [] ↔ row.code = spaceCode := by decide

/-- Settles O12: the keys are those that the look-ups tell apart, and different code words come from different sequences. -/
theorem tableRowsAreInjective : Obligations.TableRowsAreInjective :=
  ⟨table_length, fun _ hrow _ hv => row_seq_dit_or_dah hrow hv, row_seq_eq_nil_iff, table_codes_nodup,
    table_seqs_nodup, table_codeWords_nodup⟩

/-! ## A row run by a unit (R155, R156, R176, R178) -/

theorem mem_instrRows_of_letter {e : Row × (UnitId → Instr)} (h : e ∈ letterRows) : e ∈ instrRows :=
  List.mem_append_left _ (List.mem_append_left _ h)

theorem mem_instrRows_of_digit {e : Row × (UnitId → Instr)} (h : e ∈ digitRows) : e ∈ instrRows :=
  List.mem_append_left _ (List.mem_append_right _ h)

/-- Run by ENC, a row puts its symbols and End (R155, R156). -/
theorem putsSymbols_of_row {e : Row × (UnitId → Instr)} (he : e ∈ instrRows) : PutsSymbols e.2 e.1.seq := by
  intro s hrun hidx hout
  obtain ⟨e', he'⟩ := Enc.putChar_isSome e.1.seq hout
  obtain ⟨p, hp, rfl⟩ := Enc.putChar_eq_some he'
  refine ⟨p, hp, ?_⟩
  rw [exec_of_row e he, runRow_enc_eq_next_iff]
  exact ⟨(Enc.charEnabled_iff _).2 ⟨hrun, hidx⟩, _, he', rfl⟩

theorem Dec.advance_eq_pastSymbol (d : Dec) : d.advance = d.pastSymbol := by
  simp only [Dec.advance, nextCursor_eq_zero]
  rfl

/-- Run by DEC, a row reads the End and emits its code (R176, R178). -/
theorem emitsCode_of_row {e : Row × (UnitId → Instr)} (he : e ∈ instrRows) : EmitsCode e.2 e.1.code := by
  intro s hrun hptr
  rw [exec_of_row e he, runRow_dec_eq_next_iff, Dec.advance_eq_pastSymbol]
  exact ⟨(Dec.symEnabled_iff _).2 ⟨hrun, hptr⟩, rfl⟩

/-- Settles O18: a case of what every row does in ENC. -/
theorem lettersPutTheirSymbolsInEnc : Obligations.LettersPutTheirSymbolsInEnc :=
  (List.forall_iff_forall_mem (l := letterRows)).2 fun _ he => putsSymbols_of_row (mem_instrRows_of_letter he)

/-- Settles O21: a case of what every row does in DEC. -/
theorem lettersEmitTheirCodeInDec : Obligations.LettersEmitTheirCodeInDec :=
  (List.forall_iff_forall_mem (l := letterRows)).2 fun _ he => emitsCode_of_row (mem_instrRows_of_letter he)

/-! ## The packed form of a stream (R53, R158) -/

/-- The bytes that hold a stream of symbols, the unused slots of the last one `00` (R158). -/
def packed : List Sym → Buffer
  | [] => []
  | [s0] => [byteOf s0 symEnd symEnd symEnd]
  | [s0, s1] => [byteOf s0 s1 symEnd symEnd]
  | [s0, s1, s2] => [byteOf s0 s1 s2 symEnd]
  | s0 :: s1 :: s2 :: s3 :: rest => byteOf s0 s1 s2 s3 :: packed rest

/-- The slots that a stream of `n` symbols leaves unused in its last byte (R158, R186). -/
def padding (n : Nat) : Nat := 4 * bytesFor n - n

theorem padding_add_four (n : Nat) : padding (n + 4) = padding n := by
  simp only [padding, bytesFor]
  omega

theorem padding_lt_four (n : Nat) : padding n < 4 := by
  simp only [padding, bytesFor]
  omega

/-- The packed form holds the stream, and `00` after it (R38, R158). -/
theorem slotsOf_packed (q : List Sym) : slotsOf (packed q) = q ++ List.replicate (padding q.length) symEnd := by
  induction q using packed.induct with
  | case1 => rfl
  | case2 | case3 | case4 => simp [packed, slotsOf, slotOf_byteOf, padding, bytesFor, List.replicate]
  | case5 s0 s1 s2 s3 rest ih => simp [packed, slotsOf, slotOf_byteOf, ih, padding_add_four]

/-- PUT where the cursor is inside the last byte (R154). -/
theorem Enc.put_inside (e : Enc) (v : Sym) (pre : Buffer) (b : Byte) {c : Cursor} (hc : c ≠ 0#2) :
    ({ e with out := pre ++ [b], cur := c } : Enc).put v =
      some { e with out := pre ++ [writeSlot v b c], cur := nextCursor c } :=
  Enc.put_at_nonzero _ v hc rfl

/-- Four PUTs from cursor 0 append a byte (R53, R154). -/
theorem Enc.puts_four (s0 s1 s2 s3 : Sym) {e : Enc} (h : e.cur = 0#2) :
    e.puts [s0, s1, s2, s3] = some { e with out := e.out ++ [byteOf s0 s1 s2 s3], cur := 0#2 } := by
  simp [Enc.puts, Enc.put_at_zero _ _ h, Enc.put_inside, nextCursor, ← writeSlot_four_eq_byteOf]

/-- PUT of a stream from cursor 0 appends its packed form (R154, R158). -/
theorem Enc.puts_eq_packed (q : List Sym) {e : Enc} (h : e.cur = 0#2) :
    e.puts q = some { e with out := e.out ++ packed q, cur := BitVec.ofNat 2 q.length } := by
  induction q using packed.induct generalizing e with
  | case1 => simp [Enc.puts, packed, ← h]
  | case2 | case3 | case4 =>
    simp [Enc.puts, packed, Enc.put_at_zero _ _ h, Enc.put_inside, nextCursor, ← writeSlot_four_eq_byteOf, symEnd,
      writeSlot_end]
  | case5 s0 s1 s2 s3 rest ih =>
    have hcur : BitVec.ofNat 2 (rest.length + 4) = BitVec.ofNat 2 rest.length := BitVec.eq_of_toNat_eq (by simp)
    have hsplit : e.puts (s0 :: s1 :: s2 :: s3 :: rest) = _ := Enc.puts_append [s0, s1, s2, s3] rest e
    rw [hsplit, Enc.puts_four s0 s1 s2 s3 h, Option.bind_some, ih rfl]
    simp [packed, hcur]

/-- The work of ENC_CHAR for a character whose PUTs begin at cursor 0 (R155, R156). -/
theorem Enc.charStep_eq_packed {e : Enc} {c : Byte} {q : List Sym} (hc : fwd (foldCode c) = some q) (h : e.cur = 0#2) :
    e.charStep c = some { e with
      idx := e.idx + 1, cur := BitVec.ofNat 2 (streamForm q).length, out := e.out ++ packed (streamForm q) } := by
  simp [Enc.charStep, hc, Enc.putChar, Enc.puts_eq_packed _ h]

/-- ENCODE of one character (R158): its stream packed, and DONE. -/
theorem Enc.pass_singleton {c : Byte} {q : List Sym} (h : fwd (foldCode c) = some q) :
    Enc.pass [c] = some {
      text := [c], idx := 1, cur := BitVec.ofNat 2 (streamForm q).length, out := packed (streamForm q),
      status := .done } := by
  rw [Enc.pass, List.length_singleton, Enc.loop, if_pos (Enc.start_status _), Enc.turn_below rfl,
    Enc.charStep_eq_packed h rfl]
  rfl

/-! ## DEC's pass as its steps over the slots of its input (R39, R184) -/

theorem length_slotsOf (bytes : Buffer) : (slotsOf bytes).length = 4 * bytes.length := by
  induction bytes with
  | nil => rfl
  | cons b rest ih =>
    simp only [slotsOf, List.length_cons, ih]
    omega

/-- Symbol `4i + c` of a packed buffer is slot `c` of byte `i` (R39). -/
theorem getElem?_slotsOf (bytes : Buffer) (i : Nat) {c : Nat} (hc : c < 4) :
    (slotsOf bytes)[4 * i + c]? = bytes[i]?.map (slotOf · c) := by
  induction bytes generalizing i with
  | nil => rfl
  | cons b rest ih =>
    cases i with
    | zero => interval_cases c <;> rfl
    | succ i =>
      rw [show 4 * (i + 1) + c = 4 * i + c + 4 by omega]
      exact ih i

/-- The symbol that (ptr, cur) names is the one at the stream index (R27, R38). -/
theorem Dec.getElem?_symbolIndex (d : Dec) :
    (slotsOf d.inp)[d.symbolIndex]? = d.inp[d.ptr]?.map (slotOf · d.cur.toNat) :=
  getElem?_slotsOf d.inp d.ptr d.cur.isLt

/-- A step that leaves DEC in RUN has read one symbol (R27, R176). -/
theorem Dec.onSymbol_of_run {r : SpaceRule} {d : Dec} {v : Sym} (h : (d.onSymbol r v).status = .run) :
    d.status = .run ∧ (d.onSymbol r v).symbolIndex = d.symbolIndex + 1 := by
  rw [← d.advance_symbolIndex]
  rcases Dec.onSymbol_cases r d v with ⟨_, _, _, hd⟩ | ⟨_, _, hd⟩ | ⟨_, _, hd⟩ | ⟨_, _, _, hd⟩ | ⟨_, _, _, hd⟩ <;>
    rw [hd] at h ⊢
  · exact ⟨h, rfl⟩
  · cases h
  · exact ⟨h, rfl⟩
  · exact ⟨h, rfl⟩
  · cases h

theorem Dec.run_of_foldl_run {r : SpaceRule} {q : List Sym} {d : Dec} (h : (q.foldl (Dec.onSymbol r) d).status = .run) :
    d.status = .run := by
  induction q generalizing d with
  | nil => exact h
  | cons v rest ih => exact (Dec.onSymbol_of_run (ih h)).1

/-- DECODE's loop, where no symbol raises: the steps of the symbols that are left, then the end-of-stream step (R184). -/
theorem Dec.loop_eq_atEnd {r : SpaceRule} {q : List Sym} {d : Dec} (hq : (slotsOf d.inp).drop d.symbolIndex = q)
    (hrun : (q.foldl (Dec.onSymbol r) d).status = .run) :
    d.loop r (q.length + 1) = (q.foldl (Dec.onSymbol r) d).atEnd := by
  induction q generalizing d with
  | nil =>
    have hend : d.inp[d.ptr]? = none := by
      simpa [List.getElem?_eq_none (List.drop_eq_nil_iff.1 hq)] using d.getElem?_symbolIndex.symm
    have hturn := Dec.turn_at_end r (List.getElem?_eq_none_iff.1 hend)
    rw [List.foldl_nil] at hrun ⊢
    rw [List.length_nil, Dec.loop, if_pos hrun, hturn, Dec.loop]
  | cons v rest ih =>
    have hv : (slotsOf d.inp)[d.symbolIndex]? = some v := by
      rw [← List.head?_drop, hq, List.head?_cons]
    obtain ⟨b, hb, rfl⟩ := Option.map_eq_some_iff.1 (d.getElem?_symbolIndex.symm.trans hv)
    have hstep := Dec.onSymbol_of_run (Dec.run_of_foldl_run hrun)
    have hturn := Dec.turn_below r hb
    rw [readSlot_eq_slotOf] at hturn
    rw [List.length_cons, Dec.loop, if_pos hstep.1, hturn]
    refine ih ?_ hrun
    rw [Dec.onSymbol_inp, hstep.2, ← List.tail_drop, hq, List.tail_cons]

/-- DECODE of a stream in its packed form, where no symbol raises (R158, R184). -/
theorem Dec.pass_packed {r : SpaceRule} {q : List Sym} {d d' : Dec}
    (hstream : q.foldl (Dec.onSymbol r) (Dec.start (packed q)) = d)
    (hpad : (List.replicate (padding q.length) symEnd).foldl (Dec.onSymbol r) d = d') (hrun : d'.status = .run) :
    Dec.pass r (packed q) = d'.atEnd := by
  have hslots : (slotsOf (packed q)).foldl (Dec.onSymbol r) (Dec.start (packed q)) = d' := by
    rw [slotsOf_packed, List.foldl_append, hstream, hpad]
  rw [← hslots] at hrun ⊢
  rw [Dec.pass, ← length_slotsOf]
  exact Dec.loop_eq_atEnd rfl hrun

/-! ## DEC's steps over the symbols of a row (R177 to R180, R185) -/

theorem Dec.onSymbol_of_accumulates {r : SpaceRule} {d : Dec} {v : Sym} (ht : terminatesUnder r v d.acc = false)
    (hk : d.k.toNat < 8) : d.onSymbol r v = { d.advance with acc := placeSym d.acc d.k v, k := d.k + 1#4 } := by
  simp [Dec.onSymbol, ht, cwSlots, hk]

theorem Dec.onSymbol_of_emits {r : SpaceRule} {d : Dec} {v : Sym} {ch : Byte} (ht : terminatesUnder r v d.acc = true)
    (hch : rev d.acc = some ch) : d.onSymbol r v = d.advance.emit ch := by
  simp [Dec.onSymbol, ht, hch]

theorem terminatesUnder_of_ne {v : Sym} (h : v ≠ symEnd) (r : SpaceRule) (acc : CodeWord) :
    terminatesUnder r v acc = false := by
  cases r <;> simp [terminatesUnder, h]

theorem terminatesUnder_immediate_end (acc : CodeWord) : terminatesUnder .immediate symEnd acc = true := rfl

theorem terminatesUnder_absorb_end (acc : CodeWord) : terminatesUnder .absorb symEnd acc = true ↔ acc ≠ 0#16 := by
  simp [terminatesUnder]

theorem count_succ {k : BitVec 4} (h : k.toNat < 8) : (k + 1#4).toNat = k.toNat + 1 :=
  BitVec.toNat_add_of_lt (by simp only [BitVec.toNat_ofNat]; omega)

theorem count_add_succ (k : BitVec 4) (n : Nat) : k + 1#4 + BitVec.ofNat 4 n = k + BitVec.ofNat 4 (n + 1) := by
  rw [BitVec.ofNat_add, BitVec.add_assoc, BitVec.add_comm (1#4)]

/-- Symbols other than End fill the positions of the code word (R180 a, R57). -/
theorem Dec.foldl_accumulates {r : SpaceRule} {q : List Sym} {d : Dec} (hend : symEnd ∉ q)
    (hk : d.k.toNat + q.length ≤ 8) :
    ∃ p c, q.foldl (Dec.onSymbol r) d = { d with
      ptr := p, cur := c, acc := d.acc ||| codeWordFrom d.k.toNat q, k := d.k + BitVec.ofNat 4 q.length } := by
  induction q generalizing d with
  | nil => exact ⟨d.ptr, d.cur, by simp [codeWordFrom]⟩
  | cons v rest ih =>
    rw [List.length_cons] at hk
    have hstep := Dec.onSymbol_of_accumulates (d := d)
      (terminatesUnder_of_ne (Ne.symm (List.ne_of_not_mem_cons hend)) r d.acc) (by omega)
    have hk1 : (d.k + 1#4).toNat = d.k.toNat + 1 := count_succ (by omega)
    have hacc : placeSym d.acc d.k v ||| codeWordFrom (d.k.toNat + 1) rest = d.acc ||| codeWordFrom d.k.toNat (v :: rest) :=
      BitVec.or_assoc _ _ _
    obtain ⟨p, c, h⟩ := ih (d := d.onSymbol r v) (List.not_mem_of_not_mem_cons hend) (by rw [hstep, hk1]; omega)
    exact ⟨p, c, by simpa [hstep, hk1, hacc, count_add_succ] using h⟩

/-- A row's symbols and End, read at a character boundary, emit the row's code and come back to a boundary (R178). -/
theorem Dec.foldl_row {r : SpaceRule} {row : Row} {d : Dec} (hrow : row ∈ table) (hacc : d.acc = 0#16) (hk : d.k = 0#4)
    (ht : terminatesUnder r symEnd (codeWordOf row.seq) = true) :
    ∃ p c, (streamForm row.seq).foldl (Dec.onSymbol r) d = { d with ptr := p, cur := c, out := d.out ++ [row.code] } := by
  have hlen : row.seq.length ≤ 6 := row_seq_length row hrow
  obtain ⟨p, c, h⟩ := Dec.foldl_accumulates (r := r) (d := d) (fun hmem => (row_seq_symbols row hrow _ hmem).1 rfl)
    (by simp [hk]; omega)
  rw [hacc, hk, BitVec.zero_or] at h
  rw [streamForm, List.foldl_append, h, List.foldl_cons, List.foldl_nil, Dec.onSymbol_of_emits ht (rev_of_row hrow),
    hacc, hk]
  exact ⟨_, _, rfl⟩

/-- Under IMMEDIATE each End at a character boundary is a space (R185). -/
theorem Dec.foldl_ends_immediate (n : Nat) {d : Dec} (hacc : d.acc = 0#16) (hk : d.k = 0#4) :
    ∃ p c, (List.replicate n symEnd).foldl (Dec.onSymbol .immediate) d =
      { d with ptr := p, cur := c, out := d.out ++ spaces n } := by
  induction n generalizing d with
  | zero => exact ⟨d.ptr, d.cur, by simp [spaces]⟩
  | succ n ih =>
    obtain ⟨p, c, hspace⟩ := Dec.foldl_row (r := .immediate) (row := rowSpace) (by decide) hacc hk
      (terminatesUnder_immediate_end _)
    obtain ⟨p', c', h⟩ := ih (d := { d with ptr := p, cur := c, out := d.out ++ [rowSpace.code] }) hacc hk
    have hfirst : d.onSymbol .immediate symEnd = _ := hspace
    rw [List.replicate_succ, List.foldl_cons, hfirst, h]
    exact ⟨p', c', by simp [spaces, List.replicate_succ, rowSpace, spaceCode]⟩

/-- Under ABSORB the Ends after a terminated character are counted only (R175, R180 a). -/
theorem Dec.foldl_ends_absorb (n : Nat) {d : Dec} (hacc : d.acc = 0#16) (hk : d.k.toNat + n ≤ 8) :
    ∃ p c, (List.replicate n symEnd).foldl (Dec.onSymbol .absorb) d =
      { d with ptr := p, cur := c, k := d.k + BitVec.ofNat 4 n } := by
  induction n generalizing d with
  | zero => exact ⟨d.ptr, d.cur, by simp⟩
  | succ n ih =>
    have hstep := Dec.onSymbol_of_accumulates (d := d) (v := symEnd)
      (by simp [terminatesUnder, hacc] : terminatesUnder .absorb symEnd d.acc = false) (by omega)
    have hplace : placeSym d.acc d.k symEnd = d.acc := by simp [placeSym, symEnd]
    obtain ⟨p, c, h⟩ := ih (d := d.onSymbol .absorb symEnd) (by rw [hstep, hplace, hacc])
      (by rw [hstep, count_succ (by omega)]; omega)
    exact ⟨p, c, by simpa [hstep, hplace, count_add_succ, List.replicate_succ] using h⟩

/-- DECODE of a row's packed form (R184, R185): its character, and a space for each unused slot of its last byte. -/
theorem Dec.pass_row_immediate {row : Row} (h : row ∈ table) :
    (Dec.pass .immediate (packed (streamForm row.seq))).result =
      .ok (row.code :: spaces (padding (streamForm row.seq).length)) := by
  obtain ⟨p, c, hrow⟩ := Dec.foldl_row (r := .immediate) (d := Dec.start (packed (streamForm row.seq))) h rfl rfl
    (terminatesUnder_immediate_end _)
  obtain ⟨p', c', hpad⟩ := Dec.foldl_ends_immediate (padding (streamForm row.seq).length)
    (d := { Dec.start (packed (streamForm row.seq)) with ptr := p, cur := c, out := [row.code] }) rfl rfl
  rw [Dec.pass_packed hrow hpad rfl]
  rfl

theorem codeWordOf_row_ne_zero {row : Row} (h : row ∈ table) (hne : row.seq ≠ []) : codeWordOf row.seq ≠ 0#16 := by
  intro hzero
  have hlen := (positionOf_row_eq_symEnd_iff h (j := 0) (by decide)).1 (by rw [hzero, positionOf_zero])
  exact hne (List.length_eq_zero_iff.1 (Nat.le_zero.1 hlen))

/-- DECODE of a row's packed form (R182, R184): its character, and one space where its last byte has unused slots. -/
theorem Dec.pass_row_absorb {row : Row} (h : row ∈ table) (hne : row.seq ≠ []) :
    (Dec.pass .absorb (packed (streamForm row.seq))).result =
      .ok (row.code :: spaces (min 1 (padding (streamForm row.seq).length))) := by
  have hlt := padding_lt_four (streamForm row.seq).length
  obtain ⟨p, c, hrow⟩ := Dec.foldl_row (r := .absorb) (d := Dec.start (packed (streamForm row.seq))) h rfl rfl
    ((terminatesUnder_absorb_end _).2 (codeWordOf_row_ne_zero h hne))
  obtain ⟨p', c', hpad⟩ := Dec.foldl_ends_absorb (padding (streamForm row.seq).length)
    (d := { Dec.start (packed (streamForm row.seq)) with ptr := p, cur := c, out := [row.code] }) rfl
    (by simp only [Dec.start_k, BitVec.toNat_ofNat]; omega)
  rw [Dec.pass_packed hrow hpad rfl]
  generalize padding (streamForm row.seq).length = n at hlt
  interval_cases n <;> rfl

/-! ## The rules of the rows (R100 to R139) -/

theorem decodeCharCode_of_folds {e : Row × (UnitId → Instr)} (he : e ∈ instrRows) {c : Byte} (hc : foldCode c = e.1.code) :
    decodeCharCode c = .instr (e.2 .enc) := by
  rw [decodeCharCode, hc, find?_key_eq instrRows_codes_nodup he]

/-- A row's rule with its worked example in closed form: ENCODE packs the row's stream, and DECODE gives back the character and
what the slots left unused decode to under each space rule. -/
def RowRuleInClosedForm (e : Row × (UnitId → Instr)) : Prop :=
  RowRule e.2 e.1.code e.1.seq (codeWordOf e.1.seq) (packed (streamForm e.1.seq))
    (e.1.code :: spaces (min 1 (padding (streamForm e.1.seq).length)))
    (e.1.code :: spaces (padding (streamForm e.1.seq).length))

theorem rowRule_of_row {e : Row × (UnitId → Instr)} (he : e ∈ instrRows) (hne : e.1.seq ≠ []) : RowRuleInClosedForm e := by
  have hrow : e.1 ∈ table := List.mem_map_of_mem he
  refine ⟨fwd_of_row hrow, rfl, rev_of_row hrow, decode_of_encodeRow he (u := .dec) rfl,
    decode_of_encodeRow he (u := .enc) rfl, fun s => ?encode, fun s hr => ?absorb, fun s hr => ?immediate⟩
  case encode =>
    have hfwd : fwd (foldCode e.1.code) = some e.1.seq := by rw [foldCode_of_row e he, fwd_of_row hrow]
    exact ⟨_, exec_encode_eq_next_iff.2 ⟨_, Enc.pass_singleton hfwd, rfl⟩⟩
  case absorb =>
    refine ⟨Dec.pass s.spaceRule (packed (streamForm e.1.seq)), ?_⟩
    rw [← Dec.pass_row_absorb hrow hne, ← hr]
    rfl
  case immediate =>
    refine ⟨Dec.pass s.spaceRule (packed (streamForm e.1.seq)), ?_⟩
    rw [← Dec.pass_row_immediate hrow, ← hr]
    rfl

theorem foldCode_lower_letter : ∀ e ∈ letterRows, foldCode (e.1.code + 0x20#8) = e.1.code := by decide

theorem foldsTo_of_letter {e : Row × (UnitId → Instr)} (he : e ∈ letterRows) :
    FoldsTo (e.1.code + 0x20#8) e.1.code e.2 := by
  have hfold := foldCode_lower_letter e he
  refine ⟨hfold, ?_⟩
  rw [decode_charCode8, decodeCharCode_of_folds (mem_instrRows_of_letter he) hfold]

theorem letter_seq_ne_nil : ∀ e ∈ letterRows, e.1.seq ≠ [] := by decide

theorem digit_seq_ne_nil : ∀ e ∈ digitRows, e.1.seq ≠ [] := by decide

theorem rowRule_and_foldsTo_of_letter {e : Row × (UnitId → Instr)} (he : e ∈ letterRows) :
    RowRuleInClosedForm e ∧ FoldsTo (e.1.code + 0x20#8) e.1.code e.2 :=
  ⟨rowRule_of_row (mem_instrRows_of_letter he) (letter_seq_ne_nil e he), foldsTo_of_letter he⟩

/-- Settles O14: A to L are the first 12 letters, and the values of their rules are the closed form, evaluated. -/
theorem rowsAToLFollowTheirRules : Obligations.RowsAToLFollowTheirRules := by
  have h := (List.forall_iff_forall_mem (l := letterRows.take 12)).2
    fun _ he => rowRule_and_foldsTo_of_letter (List.mem_of_mem_take he)
  simp only [letterRows, List.take, List.Forall, and_assoc] at h
  exact h

/-- Settles O15: M to X are the next 12 letters. -/
theorem rowsMToXFollowTheirRules : Obligations.RowsMToXFollowTheirRules := by
  have h := (List.forall_iff_forall_mem (l := (letterRows.drop 12).take 12)).2
    fun _ he => rowRule_and_foldsTo_of_letter (List.mem_of_mem_drop (List.mem_of_mem_take he))
  simp only [letterRows, List.take, List.drop, List.Forall, and_assoc] at h
  exact h

/-- Settles O16: the last two letters, and the digits. -/
theorem rowsYZAndDigitsFollowTheirRules : Obligations.RowsYZAndDigitsFollowTheirRules := by
  obtain ⟨⟨hY, hy⟩, hZ, hz⟩ := (List.forall_iff_forall_mem (l := letterRows.drop 24)).2
    fun _ he => rowRule_and_foldsTo_of_letter (List.mem_of_mem_drop he)
  have hdigits := (List.forall_iff_forall_mem (l := digitRows)).2
    fun e he => rowRule_of_row (mem_instrRows_of_digit he) (digit_seq_ne_nil e he)
  exact ⟨hY, hy, hZ, hz, hdigits⟩

end Sys2Proof.Machine

/-! PROOFS. The digits (spec/42_table_digits.md): each digit row, run by a unit, does what every row of the table does. -/

namespace Sys2Proof.Machine

/-! ## A digit row run by a unit (R130 to R139) -/

/-- Settles O19: a case of what every row does in ENC (R155, R156). -/
theorem digitsPutTheirSymbolsInEnc : Obligations.DigitsPutTheirSymbolsInEnc :=
  (List.forall_iff_forall_mem (l := digitRows)).2 fun _ he => putsSymbols_of_row (mem_instrRows_of_digit he)

/-- Settles O22: a case of what every row does in DEC (R176, R178). -/
theorem digitsEmitTheirCodeInDec : Obligations.DigitsEmitTheirCodeInDec :=
  (List.forall_iff_forall_mem (l := digitRows)).2 fun _ he => emitsCode_of_row (mem_instrRows_of_digit he)

end Sys2Proof.Machine

/-! PROOFS. The punctuation marks and space (spec/43_table_punct_space.md): the marks are rows like the letters and digits; the row
of space has no symbol, so DECODE of what ENCODE writes for it is a matter of the End alone (R175, R182, R185). -/

namespace Sys2Proof.Machine

open Config Claims

/-! ## A mark or space run by a unit (R140 to R147) -/

theorem mem_instrRows_of_mark {e : Row × (UnitId → Instr)} (h : e ∈ markRows) : e ∈ instrRows :=
  List.mem_append_right _ h

/-- Settles O20: a case of what every row does in ENC (R155, R156). -/
theorem marksPutTheirSymbolsInEnc : Obligations.MarksPutTheirSymbolsInEnc :=
  (List.forall_iff_forall_mem (l := markRows)).2 fun _ he => putsSymbols_of_row (mem_instrRows_of_mark he)

/-- Settles O23: a case of what every row does in DEC (R176, R178). -/
theorem marksEmitTheirCodeInDec : Obligations.MarksEmitTheirCodeInDec :=
  (List.forall_iff_forall_mem (l := markRows)).2 fun _ he => emitsCode_of_row (mem_instrRows_of_mark he)

/-! ## The worked example of space (R147) -/

theorem exec_decode_of_result {r : SpaceRule} {bytes text : Buffer} (h : (Dec.pass r bytes).result = .ok text) {s : State}
    (hr : s.spaceRule = r) :
    ∃ d, exec (.decode bytes) s = .next { s with dec := d, ret := .decoded (.ok text) } := by
  subst hr
  refine ⟨Dec.pass s.spaceRule bytes, ?_⟩
  rw [← h]
  rfl

/-- Under ABSORB the four Ends of a zero byte are counted, and the end of the stream makes one space of them (R175, R182). -/
theorem Dec.pass_absorb_zero_byte : (Dec.pass .absorb [0x00#8]).result = .ok [0x20#8] := by
  obtain ⟨p, c, hends⟩ := Dec.foldl_ends_absorb 4 (d := Dec.start [0x00#8]) rfl (by decide)
  have hpass : Dec.pass .absorb [0x00#8] = _ :=
    Dec.loop_eq_atEnd (q := List.replicate 4 symEnd) rfl (by rw [hends]; rfl)
  rw [hpass, hends]
  rfl

/-- Under IMMEDIATE each of the four Ends of a zero byte is a space: the one of the row, and the three of the padding (R185). -/
theorem Dec.pass_immediate_zero_byte :
    (Dec.pass .immediate [0x00#8]).result = .ok [0x20#8, 0x20#8, 0x20#8, 0x20#8] :=
  Dec.pass_row_immediate (row := rowSpace) (by decide)

theorem rowRule_space :
    RowRule .charSpace 0x20#8 [] 0x0000#16 [0x00#8] [0x20#8] [0x20#8, 0x20#8, 0x20#8, 0x20#8] := by
  have he : (rowSpace, Instr.charSpace) ∈ instrRows := mem_instrRows_of_mark (by simp [markRows])
  have hrow : rowSpace ∈ table := List.mem_map_of_mem he
  have hfwd : fwd (foldCode 0x20#8) = some [] := fwd_of_row hrow
  exact ⟨fwd_of_row hrow, rfl, rev_of_row hrow, decode_of_encodeRow he (u := .dec) rfl,
    decode_of_encodeRow he (u := .enc) rfl,
    fun _ => ⟨_, exec_encode_eq_next_iff.2 ⟨_, Enc.pass_singleton hfwd, rfl⟩⟩,
    fun _ => exec_decode_of_result Dec.pass_absorb_zero_byte,
    fun _ => exec_decode_of_result Dec.pass_immediate_zero_byte⟩

/-! ## The rules of the marks and space (R140 to R147) -/

theorem punctuation_seq_ne_nil : ∀ e ∈ markRows.take 7, e.1.seq ≠ [] := by decide

/-- Settles O17: the seven marks follow the closed form, whose values are evaluated, and space its own example. -/
theorem rowsOfMarksFollowTheirRules : Obligations.RowsOfMarksFollowTheirRules := by
  obtain ⟨hcolon, hperiod, hquestion, hslash, hhyphen, hlparen, hrparen⟩ :=
    (List.forall_iff_forall_mem (l := markRows.take 7)).2
      fun e he => rowRule_of_row (mem_instrRows_of_mark (List.mem_of_mem_take he)) (punctuation_seq_ne_nil e he)
  exact ⟨hcolon, hperiod, hquestion, hslash, hhyphen, hlparen, hrparen, rowRule_space⟩

end Sys2Proof.Machine

/-! PROOFS. The encoder (spec/44_encoder.md): FOLD and FWD as facts about codes, the steps of the units and the rows they run, ENCODE of a
supported text as the packed form of its stream, and the text's upper case as what the stream determines. -/

namespace Sys2Proof.Machine

open Config

/-! ## FOLD (R151) -/

theorem foldCode_toNat_of_lower {c : Byte} (h : 0x61 ≤ c.toNat ∧ c.toNat ≤ 0x7A) : (foldCode c).toNat = c.toNat - 0x20 := by
  have hif : 0x61#8 ≤ c ∧ c ≤ 0x7A#8 := h
  rw [foldCode, if_pos hif, BitVec.toNat_sub_of_le (BitVec.le_trans (by decide) hif.1)]
  rfl

theorem foldCode_of_not_lower {c : Byte} (h : c.toNat < 0x61 ∨ 0x7A < c.toNat) : foldCode c = c :=
  if_neg fun hif : 0x61 ≤ c.toNat ∧ c.toNat ≤ 0x7A => by omega

/-- A folded letter is below the lower-case letters, so FOLD leaves it alone. -/
theorem foldCode_idempotent (c : Byte) : foldCode (foldCode c) = foldCode c := by
  by_cases h : 0x61 ≤ c.toNat ∧ c.toNat ≤ 0x7A
  · have hfold := foldCode_toNat_of_lower h
    exact foldCode_of_not_lower (by omega)
  · have hfold : foldCode c = c := foldCode_of_not_lower (by omega)
    rw [hfold, hfold]

/-- Settles O8: the code returned is `foldCode`, case by case. -/
theorem foldUppercasesLettersOnly : Obligations.FoldUppercasesLettersOnly :=
  ⟨fun c _ => ⟨foldCode c, rfl, foldCode_toNat_of_lower, foldCode_of_not_lower⟩, foldCode_idempotent⟩

/-! ## FWD and the supported codes (R152, R153) -/

theorem fwd_ne_none_iff {c : Byte} : fwd c ≠ none ↔ c ∈ table.map Row.code := by
  rw [List.mem_map]
  constructor
  · intro h
    obtain ⟨q, hq⟩ := Option.ne_none_iff_exists'.1 h
    obtain ⟨row, hrow, hcode, _⟩ := fwd_eq_some hq
    exact ⟨row, hrow, hcode⟩
  · rintro ⟨row, hrow, rfl⟩
    simp [fwd_of_row hrow]

/-- Settles O9: FWD answers from the row with the code, and rows have at most six symbols, each Dit or Dah. -/
theorem forwardLookUpFindsTheRow : Obligations.ForwardLookUpFindsTheRow := by
  refine ⟨fun c s => ⟨fwd c, rfl, ?found, fun hnone => ?notFound, fun q hq => ?symbols⟩, ?lowerCase,
    fwd_of_row (row := rowSpace) (by decide)⟩
  case found =>
    rintro row hrow rfl
    exact fwd_of_row hrow
  case notFound =>
    by_contra hsome
    obtain ⟨row, hrow, hcode⟩ := List.mem_map.1 (fwd_ne_none_iff.1 hsome)
    exact hnone row hrow hcode
  case symbols =>
    obtain ⟨row, hrow, _, rfl⟩ := fwd_eq_some hq
    exact ⟨row_seq_length row hrow, fun _ hv => row_seq_dit_or_dah hrow hv⟩
  case lowerCase =>
    exact not_not.1 (mt fwd_ne_none_iff.1 (by decide))

/-- The codes of the table as ranges (R58): space, parentheses, `-` to `:`, `?`, the upper-case letters. -/
theorem mem_table_codes_iff : ∀ c : Byte, c ∈ table.map Row.code ↔
    (c = 0x20#8 ∨ c = 0x28#8 ∨ c = 0x29#8 ∨ (0x2D ≤ c.toNat ∧ c.toNat ≤ 0x3A) ∨ c = 0x3F#8 ∨
      (0x41 ≤ c.toNat ∧ c.toNat ≤ 0x5A)) := by
  decide

/-- FOLD brings exactly the lower-case letters into the table that were not in it (R153). -/
theorem fwd_foldCode_ne_none_iff (c : Byte) : fwd (foldCode c) ≠ none ↔
    c ∈ table.map Row.code ∨ (0x61 ≤ c.toNat ∧ c.toNat ≤ 0x7A) := by
  rw [fwd_ne_none_iff]
  by_cases h : 0x61 ≤ c.toNat ∧ c.toNat ≤ 0x7A
  · have hfold := foldCode_toNat_of_lower h
    have hletter : 0x41 ≤ (foldCode c).toNat ∧ (foldCode c).toNat ≤ 0x5A := by omega
    simp [mem_table_codes_iff (foldCode c), hletter, h]
  · rw [foldCode_of_not_lower (by omega)]
    exact (or_iff_left h).symm

/-- Settles O13: the table's codes and the lower-case letters, counted. -/
theorem supportedCodesAreSeventy : Obligations.SupportedCodesAreSeventy := by
  refine ⟨fun c => ?ranges, by decide⟩
  case ranges =>
    rw [fwd_foldCode_ne_none_iff, mem_table_codes_iff]
    simp only [or_assoc]

/-! ## The steps of ENC (R154, R156, R157) -/

/-- Settles O24: the two cases of PUT, at cursor 0 and inside the last byte. -/
theorem putAppendsThenWritesTheSlot : Obligations.PutAppendsThenWritesTheSlot := by
  refine ⟨fun v s hcur => ?append, fun v s pre b hcur hout => ?inside⟩
  case append =>
    have hbyte : writeSlot v 0x00#8 0#2 = v.setWidth 8 := by simp [writeSlot_eq_or]
    exact State.setEnc_eq_next_iff.2 ⟨_, s.enc.put_at_zero v hcur, by rw [hbyte]⟩
  case inside =>
    rw [← writeSlot_eq_or]
    exact State.setEnc_eq_next_iff.2 ⟨_, s.enc.put_at_nonzero v hcur hout, rfl⟩

theorem Enc.charStep_of_supported {e : Enc} {c : Byte} {q : List Sym} (h : fwd (foldCode c) = some q) :
    e.charStep c = e.putChar q := by
  simp [Enc.charStep, h]

theorem Enc.charStep_of_unsupported {e : Enc} {c : Byte} (h : fwd (foldCode c) = none) :
    e.charStep c = some (e.raise { index := e.idx, code := c }) := by
  simp [Enc.charStep, h]

theorem Enc.charEnabled_of_char {e : Enc} {c : Byte} (hrun : e.status = .run) (hc : e.text[e.idx]? = some c) :
    e.charEnabled = true :=
  e.charEnabled_iff.2 ⟨hrun, (List.getElem?_eq_some_iff.1 hc).1⟩

/-- Settles O25: the character's PUTs where it has a row, the fault with its place and its code where it has none. -/
theorem encCharPutsOrRaises : Obligations.EncCharPutsOrRaises := by
  intro s raw hrun hraw
  have hE := Enc.charEnabled_of_char hrun hraw
  refine ⟨fun q hq hout => ?puts, fun hnone => ?raises⟩
  case puts =>
    obtain ⟨e, he⟩ := Enc.putChar_isSome q hout
    obtain ⟨p, hp, rfl⟩ := Enc.putChar_eq_some he
    exact ⟨p, hp, exec_encChar_eq_next_iff.2 ⟨hE, raw, _, hraw, (Enc.charStep_of_supported hq).trans he, rfl⟩⟩
  case raises =>
    exact exec_encChar_eq_next_iff.2 ⟨hE, raw, _, hraw, Enc.charStep_of_unsupported hnone, rfl⟩

/-- Settles O26: at the end of the text ENC_DONE is enabled, and it only ends the pass. -/
theorem encDoneEndsThePass : Obligations.EncDoneEndsThePass :=
  fun s hrun hend => exec_encDone_eq_next_iff.2 ⟨s.enc.doneEnabled_iff.2 ⟨hrun, hend⟩, rfl⟩

/-! ## What a unit's input holds is the enabled step of the spec (R158, R172) -/

theorem fetchEnc_at_end {e : Enc} (h : e.text.length ≤ e.idx) : fetchEnc e = .encDone := by
  simp [fetchEnc, memRead_eq_none.2 h]

theorem fetchDec_at_end {r : SpaceRule} {d : Dec} (h : d.inp.length ≤ d.ptr) : fetchDec r d = .decEos := by
  simp [fetchDec, memRead_eq_none.2 h]

theorem fetchEnc_of_reject {e : Enc} {c : Byte} {r : Reject} (hc : e.text[e.idx]? = some c)
    (hd : decodeCharCode c = .reject r) : fetchEnc e = .encChar := by
  simp [fetchEnc, memRead, hc, hd]

/-- Where a character terminates and its code word has no row, the End is DEC's instruction (R179). -/
theorem fetchDec_of_reject {r : SpaceRule} {d : Dec} {b : Byte} {w : Reject} (hb : d.inp[d.ptr]? = some b)
    (hd : decodeCodeWord d.acc = .reject w) : fetchDec r d = decodeSymbol (slotOf b d.cur.toNat) := by
  simp [fetchDec, memRead, hb, readSlot_eq_slotOf, hd]

theorem exec_decodeSymbol (v : Sym) (s : State) : exec (decodeSymbol v) s = runSymbol v s := by
  have hv : ∀ v : Sym, v = symEnd ∨ v = dit ∨ v = dah ∨ v = rsv := by decide
  rcases hv v with rfl | rfl | rfl | rfl <;> rfl

/-- ENC_CHAR is the row of the character it finds (R155, R156). -/
theorem exec_encChar_eq_runRow {s : State} {c : Byte} {row : Row} (hc : s.enc.text[s.enc.idx]? = some c)
    (hrow : fwd (foldCode c) = some row.seq) : exec .encChar s = runRow row .enc s := by
  simp [exec, execEncChar, runRow, memRead, hc, Enc.charStep_of_supported hrow]

/-- DEC_SYM is the symbol in the slot it reads (R176, R177). -/
theorem exec_decSym_eq_runSymbol {s : State} {b : Byte} (hb : s.dec.inp[s.dec.ptr]? = some b) :
    exec .decSym s = runSymbol (slotOf b s.dec.cur.toNat) s := by
  simp [exec, execDecSym, runSymbol, memRead, hb, readSlot_eq_slotOf]

/-- A terminating End runs the row of the code word it ends (R178). -/
theorem runSymbol_eq_runRow {s : State} {v : Sym} {row : Row} (ht : terminatesUnder s.spaceRule v s.dec.acc = true)
    (hrow : rev s.dec.acc = some row.code) : runSymbol v s = runRow row .dec s := by
  simp [runSymbol, runRow, Dec.onSymbol_of_emits ht hrow]

theorem exec_fetchEnc_of_char {s : State} (h : s.enc.idx < s.enc.text.length) :
    exec (fetchEnc s.enc) s = exec .encChar s := by
  have hc := List.getElem?_eq_getElem h
  rcases decodeCharCode_eq s.enc.text[s.enc.idx] with ⟨row, mk, hmem, _, hd, hfwd⟩ | ⟨hd, _⟩
  · rw [fetchEnc_of_decode hc hd, exec_of_row _ hmem, exec_encChar_eq_runRow hc hfwd]
  · rw [fetchEnc_of_reject hc hd]

theorem exec_fetchDec_of_symbol {s : State} (h : s.dec.ptr < s.dec.inp.length) :
    exec (fetchDec s.spaceRule s.dec) s = exec .decSym s := by
  have hb := List.getElem?_eq_getElem h
  rw [exec_decSym_eq_runSymbol hb]
  rcases decodeCodeWord_eq s.dec.acc with ⟨row, mk, hmem, _, hd, hrev⟩ | ⟨hd, _⟩
  · cases ht : terminatesUnder s.spaceRule (slotOf s.dec.inp[s.dec.ptr] s.dec.cur.toNat) s.dec.acc with
    | true => rw [fetchDec_of_row hb ht hd, exec_of_row _ hmem, runSymbol_eq_runRow ht hrev]
    | false => rw [fetchDec_of_symbol hb ht, exec_decodeSymbol]
  · rw [fetchDec_of_reject hb hd, exec_decodeSymbol]

/-- Settles O50: the rows and symbols that the inputs hold are what the spec's steps do with them. -/
theorem stepIsTheEnabledStepOfTheSpec : Obligations.StepIsTheEnabledStepOfTheSpec := by
  refine fun s => ⟨fun hm h => ?encChar, fun hm h => ?encDone, fun hm h => ?decSym, fun hm h => ?decEos⟩
  case encChar => rw [step_of_mover hm, State.fetchOf, exec_fetchEnc_of_char h]
  case encDone => rw [step_of_mover hm, State.fetchOf, fetchEnc_at_end h.ge]
  case decSym => rw [step_of_mover hm, State.fetchOf, exec_fetchDec_of_symbol h]
  case decEos => rw [step_of_mover hm, State.fetchOf, fetchDec_at_end h.ge]

/-! ## ENCODE of a supported text (R158, R159) -/

theorem streamOf_cons_eq_some {c : Byte} {rest : Buffer} {q : List Sym} (h : streamOf (c :: rest) = some q) :
    ∃ r qs, fwd (foldCode c) = some r ∧ streamOf rest = some qs ∧ q = streamForm r ++ qs := by
  cases hc : fwd (foldCode c) with
  | none => simp [streamOf, charStream, hc] at h
  | some r =>
    cases hrest : streamOf rest with
    | none => simp [streamOf, charStream, hc, hrest] at h
    | some qs => exact ⟨r, qs, rfl, rfl, by simpa [streamOf, charStream, hc, hrest] using h.symm⟩

/-- PUT does not look at the index. -/
theorem Enc.put_with_idx (e : Enc) (v : Sym) (n : Nat) :
    ({ e with idx := n } : Enc).put v = (e.put v).map fun p => { p with idx := n } := by
  simp only [Enc.put]
  split
  · rfl
  · split <;> rfl

theorem Enc.puts_with_idx (q : List Sym) (e : Enc) (n : Nat) :
    ({ e with idx := n } : Enc).puts q = (e.puts q).map fun p => { p with idx := n } := by
  induction q generalizing e with
  | nil => rfl
  | cons v rest ih =>
    simp only [Enc.puts, Enc.put_with_idx]
    cases e.put v with
    | none => rfl
    | some p => exact ih p

/-- ENCODE's loop over the rest of a text puts the rest's stream, and ends the pass (R158). -/
theorem Enc.loop_of_streamOf {rest : Buffer} {q : List Sym} {e p : Enc} (hrest : e.text.drop e.idx = rest)
    (hrun : e.status = .run) (hq : streamOf rest = some q) (hp : e.puts q = some p) :
    e.loop (rest.length + 1) = some { p with idx := e.idx + rest.length, status := .done } := by
  induction rest generalizing e p q with
  | nil =>
    obtain rfl := Option.some.inj hq
    obtain rfl := Option.some.inj hp
    rw [List.length_nil, Enc.loop, if_pos hrun, Enc.turn_at_end (List.drop_eq_nil_iff.1 hrest)]
    rfl
  | cons c rest ih =>
    obtain ⟨r, qs, hc, hqs, rfl⟩ := streamOf_cons_eq_some hq
    obtain ⟨e₁, he₁, hp₁⟩ := Option.bind_eq_some_iff.1 ((Enc.puts_append _ _ e).symm.trans hp)
    obtain ⟨cur₁, out₁, rfl⟩ : ∃ cur₁ out₁, e₁ = { e with cur := cur₁, out := out₁ } := ⟨_, _, Enc.puts_frame he₁⟩
    have hhead : e.text[e.idx]? = some c := by rw [← List.head?_drop, hrest, List.head?_cons]
    have htail : e.text.drop (e.idx + 1) = rest := by rw [← List.tail_drop, hrest, List.tail_cons]
    have hturn : e.turn = some { e with idx := e.idx + 1, cur := cur₁, out := out₁ } := by
      rw [Enc.turn_below hhead, Enc.charStep_of_supported hc, Enc.putChar, he₁]
    have hnext : ({ e with idx := e.idx + 1, cur := cur₁, out := out₁ } : Enc).puts qs =
        some { p with idx := e.idx + 1 } := by
      rw [Enc.puts_with_idx qs { e with cur := cur₁, out := out₁ }, hp₁, Option.map_some]
    rw [List.length_cons, Enc.loop, if_pos hrun, hturn]
    refine (ih (e := { e with idx := e.idx + 1, cur := cur₁, out := out₁ }) htail hrun hqs hnext).trans ?_
    simp [Nat.add_assoc, Nat.add_comm 1]

/-- ENCODE of a supported text: its stream packed, and DONE at its end (R158). -/
theorem Enc.pass_of_streamOf {text : Buffer} {q : List Sym} (h : streamOf text = some q) :
    Enc.pass text = some {
      text := text, idx := text.length, cur := BitVec.ofNat 2 q.length, out := packed q, status := .done } := by
  rw [Enc.pass, Enc.loop_of_streamOf (rest := text) rfl rfl h (Enc.puts_eq_packed q rfl)]
  simp [Enc.start]

/-- The length law (R159). -/
theorem length_packed (q : List Sym) : (packed q).length = bytesFor q.length := by
  have hslots := length_slotsOf (packed q)
  rw [slotsOf_packed, List.length_append, List.length_replicate, padding] at hslots
  simp only [bytesFor] at hslots ⊢
  omega

/-- Slot `c` of byte `j` of a packed stream is symbol `4j + c` of the stream (R158). -/
theorem slotOf_packed {q : List Sym} {j : Nat} {b : Byte} (hb : (packed q)[j]? = some b) {c : Nat} (hc : c < 4) :
    slotOf b c = symAt q (4 * j + c) := by
  have hslot := getElem?_slotsOf (packed q) j hc
  rw [hb, Option.map_some, slotsOf_packed, List.getElem?_append] at hslot
  rw [symAt, List.getD_eq_getElem?_getD]
  split at hslot
  · rw [hslot, Option.getD_some]
  · next hge =>
    rw [List.getElem?_eq_none (Nat.le_of_not_lt hge), Option.getD_none]
    exact List.eq_of_mem_replicate (List.mem_of_getElem? hslot)

/-- Settles O27: the pass leaves the packed stream, which has the length and holds the bytes of the closed form. -/
theorem encodeGivesTheClosedForm : Obligations.EncodeGivesTheClosedForm := by
  intro text q s hq
  refine ⟨packed q, exec_encode_eq_next_iff.2 ⟨_, Enc.pass_of_streamOf hq, rfl⟩, length_packed q, fun j hj => ?_⟩
  have hb := List.getElem?_eq_getElem hj
  have hslot {c : Nat} (hc : c < 4) := slotOf_packed hb hc
  rw [hb, ← byteOf_slotOf (packed q)[j], hslot (by decide), hslot (by decide), hslot (by decide), hslot (by decide)]
  rfl

/-! ## The text that a stream comes from (R161) -/

/-- FWD finds a sequence for one code only (R92). -/
theorem fwd_injective {c d : Byte} {q : List Sym} (hc : fwd c = some q) (hd : fwd d = some q) : c = d := by
  obtain ⟨row, hrow, rfl, rfl⟩ := fwd_eq_some hc
  obtain ⟨row', hrow', rfl, hseq⟩ := fwd_eq_some hd
  rw [row_eq_of_seq_eq hrow hrow' hseq.symm]

theorem symEnd_not_mem_of_fwd {c : Byte} {q : List Sym} (h : fwd c = some q) : symEnd ∉ q := by
  obtain ⟨row, hrow, _, rfl⟩ := fwd_eq_some h
  exact fun hmem => (row_seq_symbols row hrow _ hmem).1 rfl

/-- Of two streams that are equal, the first characters' sequences are: neither holds an End before its own (R63). -/
theorem eq_of_streamForm_append_eq {q q' t t' : List Sym} (hq : symEnd ∉ q) (hq' : symEnd ∉ q')
    (h : streamForm q ++ t = streamForm q' ++ t') : q = q' := by
  have hprefix : streamForm q <+: streamForm q' ++ t' := h ▸ List.prefix_append _ _
  rcases List.prefix_or_prefix_of_prefix hprefix (List.prefix_append _ _) with hle | hge
  · exact eq_of_streamForm_prefix hq hq' hle
  · exact (eq_of_streamForm_prefix hq' hq hge).symm

/-- A stream determines its text up to case (R161). -/
theorem upperText_eq_of_streamOf_eq {x y : Buffer} {q : List Sym} (hx : streamOf x = some q) (hy : streamOf y = some q) :
    upperText x = upperText y := by
  induction x generalizing y q with
  | nil =>
    obtain rfl := Option.some.inj hx
    cases y with
    | nil => rfl
    | cons d rest' =>
      obtain ⟨r, qs, _, _, hnil⟩ := streamOf_cons_eq_some hy
      simp [streamForm] at hnil
  | cons c rest ih =>
    obtain ⟨r, qs, hc, hqs, rfl⟩ := streamOf_cons_eq_some hx
    cases y with
    | nil => simp [streamOf, streamForm] at hy
    | cons d rest' =>
      obtain ⟨r', qs', hd, hqs', heq⟩ := streamOf_cons_eq_some hy
      obtain rfl := eq_of_streamForm_append_eq (symEnd_not_mem_of_fwd hc) (symEnd_not_mem_of_fwd hd) heq
      obtain rfl := List.append_cancel_left heq
      have hcodes : foldCode c = foldCode d := fwd_injective hc hd
      simpa [upperText, hcodes] using ih hqs hqs'

/-- Without padding the bytes' slots are the stream itself (R158, R161). -/
theorem slotsOf_packed_of_no_padding {q : List Sym} (h : q.length % 4 = 0) : slotsOf (packed q) = q := by
  have hpad : padding q.length = 0 := by
    simp only [padding, bytesFor]
    omega
  rw [slotsOf_packed, hpad, List.replicate_zero, List.append_nil]

theorem packed_of_encoded {text bytes : Buffer} {q : List Sym} {s t : State} (hq : streamOf text = some q)
    (h : exec (.encode text) s = .next t) (hret : t.ret = .encoded (.ok bytes)) : packed q = bytes := by
  obtain ⟨e, he, rfl⟩ := exec_encode_eq_next_iff.1 h
  obtain rfl := Option.some.inj ((Enc.pass_of_streamOf hq).symm.trans he)
  exact PassResult.ok.inj (Returned.encoded.inj hret)

/-- Settles O60: the bytes' slots are the stream, and the stream determines the upper-case text. -/
theorem encodeIsInjectiveWithoutPadding : Obligations.EncodeIsInjectiveWithoutPadding := by
  intro x y bytes qx qy s t u hx hy hpadx hpady hs ht hu hret
  have hstream : qx = qy := by
    rw [← slotsOf_packed_of_no_padding hpadx, ← slotsOf_packed_of_no_padding hpady, packed_of_encoded hx hs ht,
      packed_of_encoded hy hu hret]
  subst hstream
  exact upperText_eq_of_streamOf_eq hx hy

end Sys2Proof.Machine

/-! PROOFS. The decoder (spec/45_decoder.md): the operations and the single steps of DEC, a pass as its steps over the symbols of its
input up to the first that raises, and from these what DECODE returns for a stream of ENCODE, for Ends before a character and for the
reserved value. -/

namespace Sys2Proof.Machine

open Config Claims

/-! ## The operations of DEC (R173 to R175) -/

/-- Settles O10: REV answers from the row with the code word, and no two rows have the same one. -/
theorem reverseLookUpFindsTheRow : Obligations.ReverseLookUpFindsTheRow := by
  refine ⟨fun w s => ⟨rev w, rfl, ?found, fun hnone => ?notFound⟩, table_codeWords_nodup, table_length⟩
  case found =>
    rintro row hrow rfl
    exact rev_of_row hrow
  case notFound =>
    by_contra hsome
    obtain ⟨c, hc⟩ := Option.ne_none_iff_exists'.1 hsome
    obtain ⟨row, hrow, hword, _⟩ := rev_eq_some hc
    exact hnone row hrow hword

theorem placeOperandOk_iff {k : BitVec 4} : placeOperandOk k = true ↔ k.toNat < 8 := decide_eq_true_iff

theorem placeSym_end (acc : CodeWord) (k : BitVec 4) : placeSym acc k symEnd = acc := by
  simp [placeSym, symEnd]

/-- Settles O29: the word returned is `placeSym`, whose positions are those of the old word but for the one named. -/
theorem placeOrsTheSymbolIntoThePosition : Obligations.PlaceOrsTheSymbolIntoThePosition := by
  intro acc k v s hk
  refine ⟨placeSym acc k v, exec_place_eq_next_iff.2 ⟨placeOperandOk_iff.2 hk, rfl⟩, rfl,
    positionOf_placeSym_same acc v hk, fun j hj hne => positionOf_placeSym_other acc v hk hj hne, ?noChangeByEnd⟩
  case noChangeByEnd =>
    rintro rfl
    exact placeSym_end acc k

/-- Settles O57: the operand's check fails. -/
theorem operandOutsidePlaceIsRefused : Obligations.OperandOutsidePlaceIsRefused :=
  fun _ _ _ _ hk => if_neg (mt placeOperandOk_iff.1 (Nat.not_lt.2 hk))

/-- Settles O30: each space rule's condition, with the state's SPACE_RULE put in. -/
theorem terminatesDependsOnTheSpaceRule : Obligations.TerminatesDependsOnTheSpaceRule := by
  intro v acc s
  refine ⟨fun hr => ?absorb, fun hr => ?immediate⟩
  case absorb =>
    have hterm : terminatesUnder .absorb v acc = decide (v = 0b00#2 ∧ acc ≠ 0x0000#16) := by
      simp [terminatesUnder, symEnd, bne, beq_eq_decide]
    rw [← hterm, ← hr]
    rfl
  case immediate =>
    have hterm : terminatesUnder .immediate v acc = decide (v = 0b00#2) := beq_eq_decide _ _
    rw [← hterm, ← hr]
    rfl

/-! ## The symbol step case by case (R176 to R180) -/

theorem Dec.onSymbol_of_noMatch {r : SpaceRule} {d : Dec} {v : Sym} (ht : terminatesUnder r v d.acc = true)
    (hrev : rev d.acc = none) : d.onSymbol r v = d.raise (d.malformed .noMatch d.symbolIndex) := by
  simp [Dec.onSymbol, ht, hrev]

theorem Dec.onSymbol_of_saturates {r : SpaceRule} {d : Dec} (ht : terminatesUnder r symEnd d.acc = false)
    (hk : 8 ≤ d.k.toNat) : d.onSymbol r symEnd = d.advance := by
  simp [Dec.onSymbol, ht, cwSlots, Nat.not_lt.2 hk]

theorem Dec.onSymbol_of_overflows {r : SpaceRule} {d : Dec} {v : Sym} (hv : v ≠ symEnd) (hk : 8 ≤ d.k.toNat) :
    d.onSymbol r v = d.raise (d.malformed .overflow d.symbolIndex) := by
  simp [Dec.onSymbol, terminatesUnder_of_ne hv, cwSlots, Nat.not_lt.2 hk, hv]

/-- A symbol instruction accumulates, saturates or overflows where its symbol does not terminate (R180). -/
theorem accumulates_of_symbol {i : Instr} {v : Sym} (hi : ∀ s, exec i s = runSymbol v s) : Accumulates i v := by
  intro s hrun hptr hterm
  have hE := s.dec.symEnabled_iff.2 ⟨hrun, hptr⟩
  refine ⟨fun hk => ?accumulate, fun hk hv => ?saturate, fun hk hv => ?overflow⟩ <;>
    rw [hi, runSymbol_eq_next_iff]
  case accumulate => exact ⟨hE, by rw [Dec.onSymbol_of_accumulates hterm hk, Dec.advance_eq_pastSymbol]; rfl⟩
  case saturate =>
    obtain rfl : v = symEnd := hv
    exact ⟨hE, by rw [Dec.onSymbol_of_saturates hterm (by simp [hk]), Dec.advance_eq_pastSymbol]; rfl⟩
  case overflow => exact ⟨hE, by rw [Dec.onSymbol_of_overflows hv (by simp [hk])]; rfl⟩

/-- Settles O31: each symbol value runs the symbol step with that value. -/
theorem symbolsAccumulateSaturateOrOverflow : Obligations.SymbolsAccumulateSaturateOrOverflow :=
  ⟨accumulates_of_symbol fun _ => rfl, accumulates_of_symbol fun _ => rfl, accumulates_of_symbol fun _ => rfl,
    accumulates_of_symbol fun _ => rfl⟩

/-- The code of space stands for the zero word alone (R147, R174). -/
theorem eq_zero_of_rev_eq_space {w : CodeWord} (h : rev w = some spaceCode) : w = 0x0000#16 := by
  obtain ⟨row, hrow, rfl, hcode⟩ := rev_eq_some h
  rw [(row_seq_eq_nil_iff row hrow).2 hcode]
  rfl

/-- Settles O32: under ABSORB the code word that terminates is not zero, so its character is not space. -/
theorem symEndEmitsOrRaisesNoMatch : Obligations.SymEndEmitsOrRaisesNoMatch := by
  intro s hrun hptr (hterm : terminatesUnder s.spaceRule symEnd s.dec.acc = true)
  have hE := s.dec.symEnabled_iff.2 ⟨hrun, hptr⟩
  refine ⟨fun ch hch => ⟨?emits, fun hr => ?notSpace⟩, fun hnone => ?raises⟩
  case emits =>
    exact runSymbol_eq_next_iff.2 ⟨hE, by rw [Dec.onSymbol_of_emits hterm hch, Dec.advance_eq_pastSymbol]; rfl⟩
  case notSpace =>
    rintro rfl
    rw [hr] at hterm
    exact (terminatesUnder_absorb_end _).1 hterm (eq_zero_of_rev_eq_space hch)
  case raises => exact runSymbol_eq_next_iff.2 ⟨hE, by rw [Dec.onSymbol_of_noMatch hterm hnone]; rfl⟩

/-- Settles O33: DEC_SYM is the symbol in the slot it reads, and that is enabled. -/
theorem decSymRunsTheSymbolInTheSlot : Obligations.DecSymRunsTheSymbolInTheSlot := by
  intro s b hrun hb
  have hE := s.dec.symEnabled_iff.2 ⟨hrun, (List.getElem?_eq_some_iff.1 hb).1⟩
  rw [exec_decSym_eq_runSymbol hb]
  refine ⟨⟨_, runSymbol_eq_next_iff.2 ⟨hE, rfl⟩⟩, ?_, ?_, ?_, ?_⟩ <;>
  · intro hslot
    rw [hslot]
    rfl

/-! ## The end-of-stream step case by case (R181 to R183) -/

theorem exec_decEos_of_run {s : State} (hrun : s.dec.status = .run) (hend : s.dec.ptr = s.dec.inp.length) :
    exec .decEos s = .next (s.setDec s.dec.atEnd) :=
  exec_decEos_eq_next_iff.2 ⟨s.dec.eosEnabled_iff.2 ⟨hrun, hend⟩, rfl⟩

theorem Dec.atEnd_at_boundary {d : Dec} (hk : d.k = 0#4) : d.atEnd = { d with status := .done } :=
  if_pos hk

theorem Dec.atEnd_in_zeros {d : Dec} (hk : d.k ≠ 0#4) (hacc : d.acc = 0#16) :
    d.atEnd = { d with out := d.out ++ [spaceCode], status := .done } :=
  (if_neg hk).trans (if_pos hacc)

theorem Dec.atEnd_in_character {d : Dec} (hk : d.k ≠ 0#4) (hacc : d.acc ≠ 0#16) :
    d.atEnd = d.raise (d.malformed .truncated (4 * d.inp.length)) :=
  (if_neg hk).trans (if_neg hacc)

/-- Settles O34: the step is enabled, and the count is tested first (R181). -/
theorem decEosAtABoundaryEndsThePass : Obligations.DecEosAtABoundaryEndsThePass := by
  intro s hrun hend hk
  rw [exec_decEos_of_run hrun hend, Dec.atEnd_at_boundary hk]
  rfl

/-- Settles O35: the count is not 0, so the code word decides (R182). -/
theorem decEosInZerosAppendsOneSpace : Obligations.DecEosInZerosAppendsOneSpace := by
  intro s hrun hend hk hacc
  have hk0 : s.dec.k ≠ 0#4 := fun h0 => by simp [h0] at hk
  rw [exec_decEos_of_run hrun hend, Dec.atEnd_in_zeros hk0 hacc]
  rfl

/-- Settles O36: inside a character the count is not 0, by R23 (a). -/
theorem decEosInACharacterRaisesTruncated : Obligations.DecEosInACharacterRaisesTruncated := by
  intro s hrun hend hacc hboundary
  rw [exec_decEos_of_run hrun hend, Dec.atEnd_in_character (mt hboundary hacc) hacc]
  rfl

/-! ## A pass as its steps up to the first that raises (R184, R205) -/

/-- A symbol step raises NO_MATCH or OVERFLOW at the symbol it read, or DEC stays in RUN (R177, R202). -/
theorem Dec.onSymbol_status (r : SpaceRule) {d : Dec} (v : Sym) (hrun : d.status = .run) :
    (d.onSymbol r v).status = .run ∨
      ∃ info, (d.onSymbol r v).status = .fault info ∧ info.cause ≠ .truncated ∧ info.index = d.symbolIndex := by
  rcases Dec.onSymbol_cases r d v with ⟨_, _, _, hd⟩ | ⟨_, _, hd⟩ | ⟨_, _, hd⟩ | ⟨_, _, _, hd⟩ | ⟨_, _, _, hd⟩ <;> rw [hd]
  · exact .inl hrun
  · exact .inr ⟨_, rfl, nofun, rfl⟩
  · exact .inl hrun
  · exact .inl hrun
  · exact .inr ⟨_, rfl, nofun, rfl⟩

/-- The end-of-stream step ends the pass: DONE, or TRUNCATED past the last symbol (R181 to R183). -/
theorem Dec.atEnd_status (d : Dec) :
    d.atEnd.status = .done ∨
      ∃ info, d.atEnd.status = .fault info ∧ info.cause = .truncated ∧ info.index = 4 * d.inp.length := by
  rcases d.atEnd_cases with ⟨_, hd⟩ | ⟨_, _, hd⟩ | ⟨_, _, hd⟩ <;> rw [hd]
  · exact .inl rfl
  · exact .inl rfl
  · exact .inr ⟨_, rfl, rfl, rfl⟩

/-- The end-of-stream step raises nothing but TRUNCATED (R183). -/
theorem Dec.atEnd_fault {d : Dec} {info : MalformedCode} (h : d.atEnd.status = .fault info) :
    info.cause = .truncated ∧ info.index = 4 * d.inp.length := by
  rcases d.atEnd_status with hdone | ⟨info', hfault, htruncated⟩
  · rw [hdone] at h
    cases h
  · obtain rfl := Status.fault.inj (hfault.symm.trans h)
    exact htruncated

theorem Dec.foldl_inp (r : SpaceRule) (q : List Sym) (d : Dec) : (q.foldl (Dec.onSymbol r) d).inp = d.inp := by
  induction q generalizing d with
  | nil => rfl
  | cons v rest ih => rw [List.foldl_cons, ih, Dec.onSymbol_inp]

/-- While DEC stays in RUN each symbol moves the stream index by one (R27). -/
theorem Dec.foldl_symbolIndex {r : SpaceRule} {q : List Sym} {d : Dec} (h : (q.foldl (Dec.onSymbol r) d).status = .run) :
    (q.foldl (Dec.onSymbol r) d).symbolIndex = d.symbolIndex + q.length := by
  induction q generalizing d with
  | nil => rfl
  | cons v rest ih =>
    rw [List.foldl_cons, ih h, (Dec.onSymbol_of_run (Dec.run_of_foldl_run h)).2, List.length_cons]
    omega

/-- Where symbols raise, one of them is the first that does. -/
theorem Dec.exists_first_raise {r : SpaceRule} {q : List Sym} {d : Dec} (hrun : d.status = .run)
    (h : (q.foldl (Dec.onSymbol r) d).status ≠ .run) :
    ∃ q₁ v q₂, q = q₁ ++ v :: q₂ ∧ (q₁.foldl (Dec.onSymbol r) d).status = .run ∧
      ((q₁.foldl (Dec.onSymbol r) d).onSymbol r v).status ≠ .run := by
  induction q generalizing d with
  | nil => exact absurd hrun h
  | cons v rest ih =>
    by_cases hv : (d.onSymbol r v).status = .run
    · obtain ⟨q₁, v', q₂, rfl, hq₁, hraise⟩ := ih hv h
      exact ⟨v :: q₁, v', q₂, rfl, hq₁, hraise⟩
    · exact ⟨[], v, rest, rfl, hrun, hv⟩

/-- A turn of DECODE's loop reads the next symbol of the stream (R39, R184). -/
theorem Dec.turn_of_symbol {r : SpaceRule} {d : Dec} {v : Sym} {rest : List Sym}
    (hq : (slotsOf d.inp).drop d.symbolIndex = v :: rest) : d.turn r = d.onSymbol r v := by
  have hv : (slotsOf d.inp)[d.symbolIndex]? = some v := by rw [← List.head?_drop, hq, List.head?_cons]
  obtain ⟨b, hb, rfl⟩ := Option.map_eq_some_iff.1 (d.getElem?_symbolIndex.symm.trans hv)
  rw [Dec.turn_below r hb, readSlot_eq_slotOf]

/-- DECODE's loop stops at the first symbol that raises (R205). -/
theorem Dec.loop_of_raise {r : SpaceRule} {q rest : List Sym} {v : Sym} {d : Dec} {n : Nat}
    (hq : (slotsOf d.inp).drop d.symbolIndex = q ++ v :: rest) (hn : q.length < n)
    (hrun : (q.foldl (Dec.onSymbol r) d).status = .run)
    (hraise : ((q.foldl (Dec.onSymbol r) d).onSymbol r v).status ≠ .run) :
    d.loop r n = (q.foldl (Dec.onSymbol r) d).onSymbol r v := by
  obtain ⟨n, rfl⟩ := Nat.exists_eq_add_one_of_ne_zero (Nat.ne_zero_of_lt hn)
  rw [Dec.loop, if_pos (Dec.run_of_foldl_run hrun)]
  induction q generalizing d n with
  | nil =>
    rw [Dec.turn_of_symbol hq]
    exact Dec.loop_ended r hraise n
  | cons u q' ih =>
    obtain ⟨n, rfl⟩ := Nat.exists_eq_add_one_of_ne_zero (Nat.ne_zero_of_lt (Nat.lt_of_succ_lt_succ hn))
    have hu := Dec.onSymbol_of_run (Dec.run_of_foldl_run hrun)
    rw [Dec.turn_of_symbol hq, Dec.loop, if_pos (Dec.run_of_foldl_run (q := q') hrun)]
    refine ih ?_ hrun hraise n (Nat.lt_of_succ_lt_succ hn)
    rw [Dec.onSymbol_inp, hu.2, ← List.tail_drop, hq, List.cons_append, List.tail_cons]

/-- DECODE stops at the first symbol of the buffer that raises (R184, R205). -/
theorem Dec.pass_of_raise {r : SpaceRule} {bytes : Buffer} {q rest : List Sym} {v : Sym}
    (hslots : slotsOf bytes = q ++ v :: rest) (hrun : (q.foldl (Dec.onSymbol r) (Dec.start bytes)).status = .run)
    (hraise : ((q.foldl (Dec.onSymbol r) (Dec.start bytes)).onSymbol r v).status ≠ .run) :
    Dec.pass r bytes = (q.foldl (Dec.onSymbol r) (Dec.start bytes)).onSymbol r v := by
  refine Dec.loop_of_raise hslots ?_ hrun hraise
  rw [← length_slotsOf, hslots, List.length_append]
  omega

/-- DECODE of a buffer whose symbols do not raise ends with the end-of-stream step (R184). -/
theorem Dec.pass_of_run {r : SpaceRule} {bytes : Buffer}
    (hrun : ((slotsOf bytes).foldl (Dec.onSymbol r) (Dec.start bytes)).status = .run) :
    Dec.pass r bytes = ((slotsOf bytes).foldl (Dec.onSymbol r) (Dec.start bytes)).atEnd := by
  rw [Dec.pass, ← length_slotsOf]
  exact Dec.loop_eq_atEnd rfl hrun

/-- Everything a pass of DEC can do: no symbol raises and the stream's end ends it, or the first symbol that raises does (R184). -/
theorem Dec.pass_cases (r : SpaceRule) (bytes : Buffer) :
    (((slotsOf bytes).foldl (Dec.onSymbol r) (Dec.start bytes)).status = .run ∧
      Dec.pass r bytes = ((slotsOf bytes).foldl (Dec.onSymbol r) (Dec.start bytes)).atEnd) ∨
    ∃ q v rest info, slotsOf bytes = q ++ v :: rest ∧ (q.foldl (Dec.onSymbol r) (Dec.start bytes)).status = .run ∧
      Dec.pass r bytes = (q.foldl (Dec.onSymbol r) (Dec.start bytes)).onSymbol r v ∧
      (Dec.pass r bytes).status = .fault info ∧ info.cause ≠ .truncated ∧ info.index = q.length := by
  by_cases hrun : ((slotsOf bytes).foldl (Dec.onSymbol r) (Dec.start bytes)).status = .run
  · exact .inl ⟨hrun, Dec.pass_of_run hrun⟩
  · obtain ⟨q, v, rest, hslots, hq, hraise⟩ := Dec.exists_first_raise rfl hrun
    have hpass := Dec.pass_of_raise hslots hq hraise
    obtain ⟨info, hinfo, hcause, hindex⟩ := (Dec.onSymbol_status r v hq).resolve_left hraise
    rw [Dec.foldl_symbolIndex hq] at hindex
    exact .inr ⟨q, v, rest, info, hslots, hq, hpass, by rw [hpass, hinfo], hcause, by simpa [Dec.symbolIndex] using hindex⟩

theorem Dec.pass_inp (r : SpaceRule) (bytes : Buffer) : (Dec.pass r bytes).inp = bytes := by
  rcases Dec.pass_cases r bytes with ⟨_, hpass⟩ | ⟨_, _, _, _, _, _, hpass, _⟩ <;> rw [hpass]
  · rw [Dec.atEnd_inp, Dec.foldl_inp, Dec.start_inp]
  · rw [Dec.onSymbol_inp, Dec.foldl_inp, Dec.start_inp]

/-- A pass ends: in DONE with every byte read, or in FAULT (R170, R184). -/
theorem Dec.pass_ended (r : SpaceRule) (bytes : Buffer) :
    ((Dec.pass r bytes).status = .done ∧ (Dec.pass r bytes).ptr = bytes.length) ∨
      ∃ info, (Dec.pass r bytes).status = .fault info := by
  rcases Dec.pass_cases r bytes with ⟨_, hpass⟩ | ⟨_, _, _, info, _, _, _, hfault, _⟩
  · have hstatus := Dec.atEnd_status ((slotsOf bytes).foldl (Dec.onSymbol r) (Dec.start bytes))
    rw [← hpass] at hstatus
    rcases hstatus with hdone | ⟨info, hfault, _⟩
    · have hmatches := (Dec.pass_inv r bytes).status_matches
      rw [Dec.StatusMatches, hdone, Dec.pass_inp] at hmatches
      exact .inl ⟨hdone, hmatches⟩
    · exact .inr ⟨info, hfault⟩
  · exact .inr ⟨info, hfault⟩

theorem Dec.result_of_done {d : Dec} (h : d.status = .done) : d.result = .ok d.out := by
  simp [Dec.result, h]

theorem Dec.result_of_fault {d : Dec} {info : MalformedCode} (h : d.status = .fault info) : d.result = .fault info := by
  simp [Dec.result, h]

theorem exec_decode (bytes : Buffer) (s : State) :
    exec (.decode bytes) s = .next { s with
      dec := Dec.pass s.spaceRule bytes, ret := .decoded (Dec.pass s.spaceRule bytes).result } := rfl

/-- Settles O37: the pass ends in DONE or FAULT, and it starts anew from the bytes under the state's SPACE_RULE. -/
theorem decodeIsTotal : Obligations.DecodeIsTotal := by
  refine ⟨fun bytes s => ⟨Dec.pass s.spaceRule bytes, Dec.pass_inp _ _, ?total⟩, fun bytes s s' t t' hrule ht ht' => ?same⟩
  case total =>
    rw [exec_decode]
    rcases Dec.pass_ended s.spaceRule bytes with ⟨hdone, hptr⟩ | ⟨info, hfault⟩
    · exact .inl ⟨hdone, hptr, by rw [Dec.result_of_done hdone]⟩
    · exact .inr ⟨info, hfault, by rw [Dec.result_of_fault hfault]⟩
  case same =>
    obtain rfl := Host.Outcome.next.inj ht
    obtain rfl := Host.Outcome.next.inj ht'
    simp [hrule]

/-! ## DECODE as the iteration of DEC_SYM and DEC_EOS (R184, R205) -/

/-- A turn of DECODE's loop in RUN is the enabled step of the machine (R172, R184). -/
theorem DecodeRun.of_turn {n : Nat} {s t : State} (hrun : s.dec.status = .run) (hptr : s.dec.ptr ≤ s.dec.inp.length)
    (h : DecodeRun n (s.setDec (s.dec.turn s.spaceRule)) t) : DecodeRun (n + 1) s t := by
  rcases hptr.lt_or_eq with hlt | heq
  · exact .symbol hrun hlt (exec_decSym_eq_turn hrun hlt) h
  · exact .endOfStream hrun heq (exec_decEos_eq_turn hrun heq) h

/-- DECODE's loop, where it ends the pass, is a run of DEC's steps of at most as many steps (R184). -/
theorem exists_decodeRun_of_loop {n : Nat} {s : State} (hi : s.dec.Inv s.spaceRule)
    (hended : (s.dec.loop s.spaceRule n).status ≠ .run) :
    ∃ m ≤ n, DecodeRun m s (s.setDec (s.dec.loop s.spaceRule n)) := by
  induction n generalizing s with
  | zero => exact ⟨0, le_rfl, .ended hended⟩
  | succ n ih =>
    by_cases hrun : s.dec.status = .run
    · have hloop : s.dec.loop s.spaceRule (n + 1) = (s.dec.turn s.spaceRule).loop s.spaceRule n := by
        rw [Dec.loop, if_pos hrun]
      rw [hloop] at hended ⊢
      obtain ⟨m, hm, h⟩ := ih (s := s.setDec (s.dec.turn s.spaceRule)) (Dec.turn_keeps_inv hi hrun) hended
      exact ⟨m + 1, Nat.succ_le_succ hm, .of_turn hrun hi.ptr_le h⟩
    · rw [Dec.loop_ended _ hrun]
      exact ⟨0, Nat.zero_le _, .ended hrun⟩

theorem Dec.pass_status_ne_run (r : SpaceRule) (bytes : Buffer) : (Dec.pass r bytes).status ≠ .run := by
  rcases Dec.pass_ended r bytes with ⟨hdone, _⟩ | ⟨info, hfault⟩
  · simp [hdone]
  · simp [hfault]

/-- Where a fault of a pass is in the stream: at a symbol, or past the last one (R202, R205). -/
theorem Dec.pass_fault_index {r : SpaceRule} {bytes : Buffer} {info : MalformedCode}
    (h : (Dec.pass r bytes).status = .fault info) :
    (info.cause ≠ .truncated → info.index < 4 * bytes.length) ∧
      (info.cause = .truncated → info.index = 4 * bytes.length) := by
  rcases Dec.pass_cases r bytes with ⟨_, hpass⟩ | ⟨q, v, rest, info', hslots, _, _, hfault, hcause, hindex⟩
  · rw [hpass] at h
    obtain ⟨hcause, hindex⟩ := Dec.atEnd_fault h
    rw [Dec.foldl_inp, Dec.start_inp] at hindex
    exact ⟨fun hne => absurd hcause hne, fun _ => hindex⟩
  · obtain rfl := Status.fault.inj (hfault.symm.trans h)
    have hlen := congrArg List.length hslots
    rw [length_slotsOf, List.length_append, List.length_cons] at hlen
    exact ⟨fun _ => by omega, fun heq => absurd heq hcause⟩

/-- The symbol step looks at no byte of the input but the symbol it reads (R176). -/
theorem Dec.onSymbol_with_inp (r : SpaceRule) (d : Dec) (v : Sym) (x : Buffer) :
    ({ d with inp := x } : Dec).onSymbol r v = { d.onSymbol r v with inp := x } := by
  rcases Dec.onSymbol_cases r d v with
    ⟨ht, ch, hrev, hd⟩ | ⟨ht, hrev, hd⟩ | ⟨ht, hk, hd⟩ | ⟨ht, hk, rfl, hd⟩ | ⟨_, hk, hv, hd⟩ <;> rw [hd]
  · exact Dec.onSymbol_of_emits ht hrev
  · exact Dec.onSymbol_of_noMatch ht hrev
  · exact Dec.onSymbol_of_accumulates ht hk
  · exact Dec.onSymbol_of_saturates ht (Nat.le_of_not_lt hk)
  · exact Dec.onSymbol_of_overflows hv (Nat.le_of_not_lt hk)

theorem Dec.foldl_with_inp (r : SpaceRule) (q : List Sym) (d : Dec) (x : Buffer) :
    q.foldl (Dec.onSymbol r) { d with inp := x } = { q.foldl (Dec.onSymbol r) d with inp := x } := by
  induction q generalizing d with
  | nil => rfl
  | cons v rest ih => rw [List.foldl_cons, List.foldl_cons, Dec.onSymbol_with_inp, ih]

theorem slotsOf_append (x y : Buffer) : slotsOf (x ++ y) = slotsOf x ++ slotsOf y := by
  induction x with
  | nil => rfl
  | cons b rest ih => simp [slotsOf, ih]

/-- A fault at a symbol is the fault of every longer buffer that begins with the same bytes (R205). -/
theorem Dec.pass_append_of_fault {r : SpaceRule} {pre : Buffer} {info : MalformedCode}
    (h : (Dec.pass r pre).status = .fault info) (hcause : info.cause ≠ .truncated) (rest : Buffer) :
    (Dec.pass r (pre ++ rest)).status = .fault info := by
  rcases Dec.pass_cases r pre with ⟨_, hpass⟩ | ⟨q, v, q', _, hslots, hrun, hpass, _⟩
  · rw [hpass] at h
    exact absurd (Dec.atEnd_fault h).1 hcause
  · have hlonger : slotsOf (pre ++ rest) = q ++ v :: (q' ++ slotsOf rest) := by simp [slotsOf_append, hslots]
    have hfold : q.foldl (Dec.onSymbol r) (Dec.start (pre ++ rest)) = _ := Dec.foldl_with_inp r q (Dec.start pre) _
    have hraise : ((q.foldl (Dec.onSymbol r) (Dec.start (pre ++ rest))).onSymbol r v).status = .fault info := by
      rw [hfold, Dec.onSymbol_with_inp, ← hpass, h]
    rw [Dec.pass_of_raise hlonger (by rw [hfold, hrun]) (by simp [hraise]), hraise]

/-- Settles O38: the loop's turns are the machine's steps, and the first symbol that raises is the same in a longer buffer. -/
theorem decodeIsTheIterationOfItsSteps : Obligations.DecodeIsTheIterationOfItsSteps := by
  refine ⟨fun bytes s => ?iteration, fun bytes s t info ht hfault => ?index, fun pre rest s t info ht hfault hcause => ?earliest⟩
  case iteration =>
    obtain ⟨n, hn, h⟩ := exists_decodeRun_of_loop (s := s.setDec (Dec.start bytes)) (Dec.start_inv _ bytes)
      (Dec.pass_status_ne_run s.spaceRule bytes)
    refine ⟨n, s.setDec (Dec.pass s.spaceRule bytes), hn, h, ?_⟩
    rw [exec_decode]
    rcases Dec.pass_ended s.spaceRule bytes with ⟨hdone, _⟩ | ⟨info, hfault⟩
    · exact .inl ⟨hdone, by rw [Dec.result_of_done hdone]; rfl⟩
    · exact .inr ⟨info, hfault, by rw [Dec.result_of_fault hfault]; rfl⟩
  case index =>
    obtain rfl := Host.Outcome.next.inj ht
    exact Dec.pass_fault_index hfault
  case earliest =>
    obtain rfl := Host.Outcome.next.inj ht
    have hlonger := Dec.pass_append_of_fault hfault hcause rest
    exact ⟨_, exec_decode _ _, hlonger, by rw [Dec.result_of_fault hlonger]⟩

/-! ## Ends before a character, under ABSORB (R188) -/

theorem terminatesUnder_absorb_zero (v : Sym) : terminatesUnder .absorb v 0#16 = false := by
  simp [terminatesUnder]

/-- Under ABSORB Ends at a zero code word are counted up to 8 and otherwise dropped (R175, R180 a, b). -/
theorem Dec.foldl_ends_absorb_saturating (n : Nat) {d : Dec} (hacc : d.acc = 0#16) (hk : d.k.toNat ≤ 8) :
    ∃ p c k, (List.replicate n symEnd).foldl (Dec.onSymbol .absorb) d = { d with ptr := p, cur := c, k := k } ∧
      k.toNat = min 8 (d.k.toNat + n) := by
  induction n generalizing d with
  | zero => exact ⟨d.ptr, d.cur, d.k, rfl, by omega⟩
  | succ n ih =>
    have hterm : terminatesUnder .absorb symEnd d.acc = false := hacc ▸ terminatesUnder_absorb_zero symEnd
    rw [List.replicate_succ, List.foldl_cons]
    by_cases hlt : d.k.toNat < 8
    · rw [Dec.onSymbol_of_accumulates hterm hlt, placeSym_end]
      have hcount := count_succ hlt
      obtain ⟨p, c, k, h, hkn⟩ := ih (d := { d.advance with acc := d.acc, k := d.k + 1#4 }) hacc (by simp only [hcount]; omega)
      simp only [hcount] at hkn
      exact ⟨p, c, k, h, by omega⟩
    · rw [Dec.onSymbol_of_saturates hterm (Nat.le_of_not_lt hlt)]
      obtain ⟨p, c, k, h, hkn⟩ := ih (d := d.advance) hacc hk
      rw [Dec.advance_k] at hkn
      exact ⟨p, c, k, h, by omega⟩

theorem shiftLeft_shiftRight_symbol (v : Sym) {i m : Nat} (h : i + m < 8) :
    (v.setWidth 16 <<< (14 - 2 * i)) >>> (2 * m) = v.setWidth 16 <<< (14 - 2 * (i + m)) := by
  apply BitVec.eq_of_getLsbD_eq
  intro n hn
  have hshift : 14 - 2 * i = 2 * m + (14 - 2 * (i + m)) := by omega
  rw [hshift]
  generalize ha : 14 - 2 * (i + m) = a
  rcases Nat.lt_or_ge n a with hlow | hge
  · simp [hlow]
  · obtain ⟨e, rfl⟩ := Nat.exists_eq_add_of_le hge
    rcases Nat.lt_or_ge e 2 with hin | hout
    · have hbit : 2 * m + (a + e) < 16 := by omega
      simp [hbit, hn, Nat.add_sub_add_left]
    · simp [Nat.add_sub_add_left, BitVec.getLsbD_of_ge v e hout]

/-- A sequence placed `m` positions later is its code word shifted right (R57, R188). -/
theorem codeWordFrom_add (q : List Sym) {i m : Nat} (h : i + m + q.length ≤ 8) :
    codeWordFrom (i + m) q = codeWordFrom i q >>> (2 * m) := by
  induction q generalizing i with
  | nil => simp [codeWordFrom]
  | cons v rest ih =>
    rw [List.length_cons] at h
    rw [codeWordFrom, codeWordFrom, BitVec.ushiftRight_or_distrib, shiftLeft_shiftRight_symbol v (by omega),
      ← ih (by omega), Nat.add_right_comm]

/-- No row has a code word that begins with `00` but the zero word (R62). -/
theorem rev_eq_none_of_first_position {w : CodeWord} (hw : w ≠ 0#16) (h0 : positionOf w 0 = symEnd) : rev w = none := by
  by_contra hsome
  obtain ⟨c, hc⟩ := Option.ne_none_iff_exists'.1 hsome
  obtain ⟨row, hrow, rfl, _⟩ := rev_eq_some hc
  have hlen := (positionOf_row_eq_symEnd_iff hrow (by decide)).1 h0
  exact hw (by rw [List.length_eq_zero_iff.1 (Nat.le_zero.1 hlen)]; rfl)

/-- The word of symbols that begin after position 0 has no row (R62, R188). -/
theorem rev_codeWordFrom_eq_none {q : List Sym} {m : Nat} (hm : 1 ≤ m) (hq : q ≠ []) (hend : symEnd ∉ q)
    (hlen : m + q.length ≤ 8) : codeWordFrom m q ≠ 0#16 ∧ rev (codeWordFrom m q) = none := by
  obtain ⟨v, rest, rfl⟩ := List.exists_cons_of_ne_nil hq
  have hlen' : m + rest.length + 1 ≤ 8 := hlen
  have hne : codeWordFrom m (v :: rest) ≠ 0#16 := by
    intro hzero
    have hfirst := positionOf_codeWordFrom (v :: rest) (j := m) hlen (by omega)
    rw [hzero, positionOf_zero, if_pos le_rfl, Nat.sub_self] at hfirst
    exact hend (hfirst ▸ List.mem_cons_self)
  refine ⟨hne, rev_eq_none_of_first_position hne ?_⟩
  rw [positionOf_codeWordFrom _ hlen (by decide), if_neg (by omega)]

/-- Ends and then other symbols, read at a character boundary, put the symbols after the Ends' positions (R180 a, b, R188). -/
theorem Dec.foldl_ends_then_symbols {d : Dec} {m : Nat} {q : List Sym} (hrun : d.status = .run) (hacc : d.acc = 0#16)
    (hk : d.k = 0#4) (hend : symEnd ∉ q) (hlen : min 8 m + q.length ≤ 8) :
    ∃ d', (List.replicate m symEnd ++ q).foldl (Dec.onSymbol .absorb) d = d' ∧ d'.status = .run ∧
      d'.acc = codeWordFrom (min 8 m) q ∧ d'.k.toNat = min 8 m + q.length ∧
      d'.symbolIndex = d.symbolIndex + m + q.length := by
  obtain ⟨p, c, k, hends, hkm⟩ := Dec.foldl_ends_absorb_saturating m hacc (by simp [hk])
  have hkm : k.toNat = min 8 m := by simpa [hk] using hkm
  obtain ⟨p', c', hsyms⟩ := Dec.foldl_accumulates (r := .absorb) (q := q) (d := { d with ptr := p, cur := c, k := k }) hend
    (by simpa only [hkm] using hlen)
  rw [← hends, ← List.foldl_append, hends] at hsyms
  have hcount : (k + BitVec.ofNat 4 q.length).toNat = min 8 m + q.length := by
    rw [BitVec.toNat_add, BitVec.toNat_ofNat, hkm]
    omega
  have hindex := Dec.foldl_symbolIndex (r := .absorb) (d := d) (q := List.replicate m symEnd ++ q)
    (by rw [hsyms]; exact hrun)
  rw [List.length_append, List.length_replicate, ← Nat.add_assoc] at hindex
  refine ⟨_, rfl, ?_, ?_, ?_, hindex⟩ <;> rw [hsyms]
  · exact hrun
  · simp only [hacc, hkm, BitVec.zero_or]
  · exact hcount

/-- Ends, then a character that still fits in the code word: its End finds no row (R188). -/
theorem Dec.foldl_ends_then_character {d : Dec} {m : Nat} {q : List Sym} (hrun : d.status = .run) (hacc : d.acc = 0#16)
    (hk : d.k = 0#4) (hm : 1 ≤ m) (hq : q ≠ []) (hend : symEnd ∉ q) (hlen : m + q.length ≤ 8) :
    ((List.replicate m symEnd ++ q ++ [symEnd]).foldl (Dec.onSymbol .absorb) d).status =
      .fault { cause := .noMatch, word := codeWordOf q >>> (2 * m), index := d.symbolIndex + m + q.length } := by
  have hmin : min 8 m = m := by omega
  obtain ⟨d', hread, _, hacc', _, hindex⟩ := Dec.foldl_ends_then_symbols (m := m) hrun hacc hk hend (by omega)
  rw [hmin] at hacc'
  obtain ⟨hne, hnone⟩ := rev_codeWordFrom_eq_none hm hq hend hlen
  rw [← hacc'] at hne hnone
  have hword : d'.acc = codeWordOf q >>> (2 * m) := by
    rw [hacc', codeWordOf, ← codeWordFrom_add q (by omega), Nat.zero_add]
  rw [List.foldl_append, hread, List.foldl_cons, List.foldl_nil,
    Dec.onSymbol_of_noMatch ((terminatesUnder_absorb_end _).2 hne) hnone, Dec.raise_status, Dec.malformed, hword, hindex]

/-- Ends, then a character that does not fit in the code word: its ninth position overflows (R188). -/
theorem Dec.foldl_ends_then_overflow {d : Dec} {m : Nat} {q : List Sym} (hrun : d.status = .run) (hacc : d.acc = 0#16)
    (hk : d.k = 0#4) (hq : q ≠ []) (hend : symEnd ∉ q) (hlen : 8 < m + q.length) :
    ∃ w, ((List.replicate m symEnd ++ q.take (8 - m + 1)).foldl (Dec.onSymbol .absorb) d).status =
      .fault { cause := .overflow, word := w, index := d.symbolIndex + max m 8 } := by
  have hpos : 0 < q.length := List.length_pos_iff.2 hq
  have hlt : 8 - m < q.length := by omega
  have htake : (q.take (8 - m)).length = 8 - m := List.length_take_of_le hlt.le
  obtain ⟨d', hread, _, _, hk', hindex⟩ := Dec.foldl_ends_then_symbols (m := m) (q := q.take (8 - m)) hrun hacc hk
    (fun hmem => hend (List.mem_of_mem_take hmem)) (by omega)
  have hv : q[8 - m] ≠ symEnd := fun h => hend (h ▸ List.getElem_mem hlt)
  have hmax : d'.symbolIndex = d.symbolIndex + max m 8 := by omega
  refine ⟨d'.acc, ?_⟩
  rw [← List.take_concat_get' q _ hlt, ← List.append_assoc, List.foldl_append, hread, List.foldl_cons, List.foldl_nil,
    Dec.onSymbol_of_overflows hv (by omega), Dec.raise_status, Dec.malformed, hmax]

/-- Settles O41: the symbols land after the Ends' positions, where no row's code word begins, or past the last position. -/
theorem spaceBeforeACharacterDoesNotDecode : Obligations.SpaceBeforeACharacterDoesNotDecode := by
  intro d m q hrun hacc hk hm hq hsymbols
  have hend : symEnd ∉ q := fun hmem => hsymbols _ hmem rfl
  exact ⟨Dec.foldl_ends_then_character hrun hacc hk hm hq hend, Dec.foldl_ends_then_overflow hrun hacc hk hq hend⟩

/-! ## The reserved value (R189) -/

/-- Some position of the code word holds the reserved value. -/
def HoldsReserved (w : CodeWord) : Prop := ∃ j < 8, positionOf w j = rsv

theorem not_holdsReserved_zero : ¬ HoldsReserved 0x0000#16 := by
  rintro ⟨j, _, hrsv⟩
  rw [positionOf_zero] at hrsv
  exact absurd hrsv (by decide)

/-- A word that holds the reserved value has no row (R62, R90). -/
theorem not_holdsReserved_of_rev {w : CodeWord} {c : Byte} (h : rev w = some c) : ¬ HoldsReserved w := by
  obtain ⟨row, hrow, rfl, _⟩ := rev_eq_some h
  rintro ⟨j, hj, hrsv⟩
  exact positionOf_row_ne_rsv hrow hj hrsv

/-- PLACE only ORs, so a reserved value, placed now or before, stays in the word (R173). -/
theorem holdsReserved_placeSym {acc : CodeWord} {k : BitVec 4} {v : Sym} (hk : k.toNat < 8)
    (h : v = rsv ∨ HoldsReserved acc) : HoldsReserved (placeSym acc k v) := by
  have hor : ∀ x : Sym, x ||| rsv = rsv ∧ rsv ||| x = rsv := by decide
  rcases h with rfl | ⟨j, hj, hrsv⟩
  · exact ⟨k.toNat, hk, by rw [positionOf_placeSym_same acc rsv hk, (hor _).1]⟩
  · refine ⟨j, hj, ?_⟩
    by_cases hjk : j = k.toNat
    · rw [hjk, positionOf_placeSym_same acc v hk, ← hjk, hrsv, (hor v).2]
    · rw [positionOf_placeSym_other acc v hk hj hjk, hrsv]

/-- A symbol step that does not raise leaves the reserved value in the code word: a word with it is never emitted (R189). -/
theorem Dec.onSymbol_keeps_reserved {r : SpaceRule} {d : Dec} {v : Sym} (hrun : (d.onSymbol r v).status = .run)
    (h : v = rsv ∨ HoldsReserved d.acc) : HoldsReserved (d.onSymbol r v).acc := by
  have hend : v = symEnd → HoldsReserved d.acc := fun hv => h.resolve_left (by rw [hv]; decide)
  rcases Dec.onSymbol_cases r d v with
    ⟨ht, ch, hrev, _⟩ | ⟨_, _, hd⟩ | ⟨_, hk, hd⟩ | ⟨_, _, hv, hd⟩ | ⟨_, _, _, hd⟩
  · have hv : v = symEnd := by
      by_contra hne
      rw [terminatesUnder_of_ne hne] at ht
      cases ht
    exact absurd (hend hv) (not_holdsReserved_of_rev hrev)
  · rw [hd] at hrun
    cases hrun
  · rw [hd]
    exact holdsReserved_placeSym hk h
  · rw [hd]
    exact hend hv
  · rw [hd] at hrun
    cases hrun

theorem Dec.foldl_keeps_reserved {r : SpaceRule} {q : List Sym} {d : Dec}
    (hrun : (q.foldl (Dec.onSymbol r) d).status = .run) (h : rsv ∈ q ∨ HoldsReserved d.acc) :
    HoldsReserved (q.foldl (Dec.onSymbol r) d).acc := by
  induction q generalizing d with
  | nil => exact h.resolve_left List.not_mem_nil
  | cons v rest ih =>
    refine ih hrun ?_
    rw [List.mem_cons, or_right_comm, eq_comm] at h
    exact h.symm.imp_right (Dec.onSymbol_keeps_reserved (Dec.run_of_foldl_run hrun))

/-- Settles O42: a pass without a fault would end with the reserved value in the code word, where R183 applies. -/
theorem reservedValueNeverDecodes : Obligations.ReservedValueNeverDecodes := by
  intro bytes s hrsv
  suffices hfault : ∃ info, (Dec.pass s.spaceRule bytes).status = .fault info by
    obtain ⟨info, hfault⟩ := hfault
    exact ⟨_, info, exec_decode bytes s, by rw [Dec.result_of_fault hfault]⟩
  rcases Dec.pass_cases s.spaceRule bytes with ⟨hrun, hpass⟩ | ⟨_, _, _, info, _, _, _, hfault, _⟩
  · have hinv := Dec.pass_inv s.spaceRule bytes
    have hheld := Dec.foldl_keeps_reserved hrun (.inl hrsv)
    rw [hpass] at hinv ⊢
    rcases Dec.atEnd_cases ((slotsOf bytes).foldl (Dec.onSymbol s.spaceRule) (Dec.start bytes)) with
      ⟨hk, hd⟩ | ⟨_, hacc, _⟩ | ⟨_, _, hd⟩
    · rw [hd] at hinv
      rw [hinv.boundary hk] at hheld
      exact absurd hheld not_holdsReserved_zero
    · rw [hacc] at hheld
      exact absurd hheld not_holdsReserved_zero
    · rw [hd]
      exact ⟨_, rfl⟩
  · exact ⟨info, hfault⟩

/-! ## The stream of a text (R158) -/

theorem streamOf_cons (c : Byte) (rest : Buffer) :
    streamOf (c :: rest) = (charStream c).bind fun q => (streamOf rest).map (q ++ ·) := by
  rw [streamOf]
  cases charStream c with
  | none => rfl
  | some q => cases streamOf rest <;> rfl

theorem streamOf_append (x y : Buffer) : streamOf (x ++ y) = (streamOf x).bind fun q => (streamOf y).map (q ++ ·) := by
  induction x with
  | nil => simp [streamOf]
  | cons c rest ih =>
    simp only [List.cons_append, streamOf_cons, ih, Option.bind_assoc, Option.map_bind, Option.bind_map, Option.map_map,
      Function.comp_def, List.append_assoc]

theorem streamOf_append_eq_some {x y : Buffer} {q : List Sym} (h : streamOf (x ++ y) = some q) :
    ∃ qx qy, streamOf x = some qx ∧ streamOf y = some qy ∧ q = qx ++ qy := by
  rw [streamOf_append, Option.bind_eq_some_iff] at h
  obtain ⟨qx, hx, h⟩ := h
  obtain ⟨qy, hy, rfl⟩ := Option.map_eq_some_iff.1 h
  exact ⟨qx, qy, hx, hy, rfl⟩

/-- Each space is one End (R147, R155). -/
theorem streamOf_spaces (n : Nat) : streamOf (spaces n) = some (List.replicate n symEnd) := by
  have hspace : charStream spaceCode = some [symEnd] := by decide
  induction n with
  | zero => rfl
  | succ n ih =>
    have hcons : streamOf (spaces (n + 1)) = _ := streamOf_cons spaceCode (spaces n)
    rw [hcons, hspace, ih]
    rfl

/-- A text and its upper case have the same stream (R151, R156). -/
theorem streamOf_upperText (x : Buffer) : streamOf (upperText x) = streamOf x := by
  induction x with
  | nil => rfl
  | cons c rest ih =>
    have hcons : streamOf (upperText (c :: rest)) = _ := streamOf_cons (foldCode c) (upperText rest)
    have hchar : charStream (foldCode c) = charStream c := by rw [charStream, foldCode_idempotent, charStream]
    rw [hcons, hchar, ih, streamOf_cons]

theorem upperText_idempotent (x : Buffer) : upperText (upperText x) = upperText x := by
  simp [upperText, foldCode_idempotent]

/-- A beginning of an upper-case text is in upper case. -/
theorem upperText_of_append {x y text : Buffer} (h : upperText text = x ++ y) : upperText x = x := by
  have hboth : upperText x ++ upperText y = x ++ y := by
    rw [← h, ← upperText_idempotent text, h, upperText, upperText, upperText, List.map_append]
  exact List.append_inj_left hboth (List.length_map _)

/-! ## DECODE of the stream of a text (R186, R187) -/

/-- A row's End terminates under IMMEDIATE, and under ABSORB but for the row of space (R175, R185). -/
theorem terminatesUnder_row {r : SpaceRule} {row : Row} (hrow : row ∈ table)
    (hspace : r = .immediate ∨ row.code ≠ spaceCode) : terminatesUnder r symEnd (codeWordOf row.seq) = true := by
  cases r with
  | immediate => rfl
  | absorb =>
    have hne : row.seq ≠ [] := mt (row_seq_eq_nil_iff row hrow).1 (hspace.resolve_left nofun)
    exact (terminatesUnder_absorb_end _).2 (codeWordOf_row_ne_zero hrow hne)

theorem foldCode_eq_space_iff : ∀ c : Byte, foldCode c = spaceCode ↔ c = spaceCode := by decide

/-- The stream of a text, read at a character boundary, emits the upper-case text; under ABSORB the text has no space (R186, R187). -/
theorem Dec.foldl_text {r : SpaceRule} {text : Buffer} {q : List Sym} {d : Dec} (hq : streamOf text = some q)
    (hspace : r = .immediate ∨ spaceCode ∉ text) (hacc : d.acc = 0#16) (hk : d.k = 0#4) :
    ∃ p c, q.foldl (Dec.onSymbol r) d = { d with ptr := p, cur := c, out := d.out ++ upperText text } := by
  induction text generalizing d q with
  | nil =>
    obtain rfl := Option.some.inj hq
    exact ⟨d.ptr, d.cur, by simp [upperText]⟩
  | cons c rest ih =>
    obtain ⟨seq, qs, hfwd, hqs, rfl⟩ := streamOf_cons_eq_some hq
    obtain ⟨row, hrow, hcode, rfl⟩ := fwd_eq_some hfwd
    have hrowSpace : r = .immediate ∨ row.code ≠ spaceCode := hspace.imp_right fun hmem hc =>
      hmem (List.mem_cons.2 (.inl ((foldCode_eq_space_iff c).1 (hcode.symm.trans hc)).symm))
    obtain ⟨p, cur, hfirst⟩ := Dec.foldl_row hrow hacc hk (terminatesUnder_row hrow hrowSpace)
    obtain ⟨p', cur', hrest⟩ := ih (d := { d with ptr := p, cur := cur, out := d.out ++ [row.code] }) hqs
      (hspace.imp_right List.not_mem_of_not_mem_cons) hacc hk
    exact ⟨p', cur', by rw [List.foldl_append, hfirst, hrest]; simp [upperText, hcode]⟩

/-- DECODE of a packed text under IMMEDIATE: the upper-case text, and a space for each unused slot (R187). -/
theorem Dec.pass_text_immediate {text : Buffer} {q : List Sym} (hq : streamOf text = some q) :
    (Dec.pass .immediate (packed q)).result = .ok (upperText text ++ spaces (padding q.length)) := by
  obtain ⟨p, c, htext⟩ := Dec.foldl_text (r := .immediate) (d := Dec.start (packed q)) hq (.inl rfl) rfl rfl
  obtain ⟨p', c', hpad⟩ := Dec.foldl_ends_immediate (padding q.length)
    (d := { Dec.start (packed q) with ptr := p, cur := c, out := upperText text }) rfl rfl
  rw [Dec.pass_packed htext hpad rfl]
  rfl

theorem exec_encode_of_streamOf {text : Buffer} {q : List Sym} (hq : streamOf text = some q) (s : State) :
    ∃ t, exec (.encode text) s = .next t ∧ t.ret = .encoded (.ok (packed q)) ∧ t.spaceRule = s.spaceRule :=
  ⟨_, exec_encode_eq_next_iff.2 ⟨_, Enc.pass_of_streamOf hq, rfl⟩, rfl, rfl⟩

/-- Settles O39: ENCODE leaves the packed stream and the space rule, and DECODE reads the stream character by character. -/
theorem roundTripUnderImmediate : Obligations.RoundTripUnderImmediate := by
  intro text q s hr hq
  obtain ⟨t, ht, hret, hrule⟩ := exec_encode_of_streamOf hq s
  refine ⟨packed q, t, _, ht, hret, exec_decode _ t, ?_⟩
  rw [hrule, hr, Dec.pass_text_immediate hq]
  rfl

/-- DECODE of the stream of a text without a space, then `m` Ends, under ABSORB: the Ends make one space or none (R186). -/
theorem Dec.pass_text_absorb {bytes t : Buffer} {qt : List Sym} {m : Nat}
    (hslots : slotsOf bytes = qt ++ List.replicate m symEnd) (hqt : streamOf t = some qt) (hspace : spaceCode ∉ t) :
    (Dec.pass .absorb bytes).result = .ok (upperText t ++ spaces (min 1 m)) := by
  obtain ⟨p, c, htext⟩ := Dec.foldl_text (r := .absorb) (d := Dec.start bytes) hqt (.inr hspace) rfl rfl
  obtain ⟨p', c', k, hends, hk⟩ := Dec.foldl_ends_absorb_saturating m
    (d := { Dec.start bytes with ptr := p, cur := c, out := upperText t }) rfl (Nat.zero_le _)
  have hk : k.toNat = min 8 m := by simpa using hk
  have hstream : (slotsOf bytes).foldl (Dec.onSymbol .absorb) (Dec.start bytes) =
      { Dec.start bytes with ptr := p', cur := c', k := k, out := upperText t } := by
    rw [hslots, List.foldl_append, htext]
    exact hends
  rw [Dec.pass_of_run (by rw [hstream]; rfl), hstream]
  rcases Nat.eq_zero_or_pos m with rfl | hm
  · have hk0 : k = 0#4 := BitVec.eq_of_toNat_eq hk
    rw [Dec.atEnd_at_boundary hk0]
    exact congrArg _ (List.append_nil _).symm
  · have hk0 : k ≠ 0#4 := by
      rintro rfl
      rw [BitVec.toNat_zero] at hk
      omega
    rw [Dec.atEnd_in_zeros hk0 rfl, Nat.min_eq_left hm]
    rfl

/-- A pass in which some beginning of the stream raises ends in FAULT (R205). -/
theorem Dec.pass_of_raising_prefix {r : SpaceRule} {bytes : Buffer} {q : List Sym} (hq : q <+: slotsOf bytes)
    (hraise : (q.foldl (Dec.onSymbol r) (Dec.start bytes)).status ≠ .run) :
    ∃ info, (Dec.pass r bytes).status = .fault info := by
  obtain ⟨rest, hslots⟩ := hq
  rcases Dec.pass_cases r bytes with ⟨hrun, _⟩ | ⟨_, _, _, info, _, _, _, hfault, _⟩
  · rw [← hslots, List.foldl_append] at hrun
    exact absurd (Dec.run_of_foldl_run hrun) hraise
  · exact ⟨info, hfault⟩

/-- A text that begins with a space and does not end in one has a character after its first spaces. -/
theorem exists_character_after_spaces {t : Buffer} (hlast : (spaceCode :: t).getLast? ≠ some spaceCode) :
    ∃ m c rest, t = spaces m ++ c :: rest ∧ c ≠ spaceCode := by
  induction t with
  | nil => exact absurd rfl hlast
  | cons c rest ih =>
    by_cases hc : c = spaceCode
    · subst hc
      obtain ⟨m, c, rest', rfl, hc⟩ := ih hlast
      exact ⟨m + 1, c, rest', rfl, hc⟩
    · exact ⟨0, c, rest, rfl, hc⟩

/-- The first spaces of a text that does not end in one, and the character after them. -/
theorem exists_spaces_before_character {t : Buffer} (hmem : spaceCode ∈ t) (hlast : t.getLast? ≠ some spaceCode) :
    ∃ w m c rest, t = w ++ (spaces m ++ c :: rest) ∧ spaceCode ∉ w ∧ 1 ≤ m ∧ c ≠ spaceCode := by
  obtain ⟨w, after, rfl, hw⟩ := List.eq_append_cons_of_mem hmem
  rw [List.getLast?_append_cons] at hlast
  obtain ⟨m, c, rest, rfl, hc⟩ := exists_character_after_spaces hlast
  exact ⟨w, m + 1, c, rest, rfl, hw, Nat.le_add_left 1 m, hc⟩

/-- Under ABSORB Ends before a character raise before the character's End has been passed (R188). -/
theorem Dec.exists_raise_after_ends {d : Dec} {m : Nat} {q : List Sym} (hrun : d.status = .run) (hacc : d.acc = 0#16)
    (hk : d.k = 0#4) (hm : 1 ≤ m) (hq : q ≠ []) (hend : symEnd ∉ q) :
    ∃ q', q' <+: List.replicate m symEnd ++ streamForm q ∧ (q'.foldl (Dec.onSymbol .absorb) d).status ≠ .run := by
  rcases Nat.lt_or_ge 8 (m + q.length) with hlong | hshort
  · obtain ⟨w, hfault⟩ := Dec.foldl_ends_then_overflow hrun hacc hk hq hend hlong
    refine ⟨_, (List.prefix_append_right_inj _).2 ?_, by rw [hfault]; nofun⟩
    exact (List.take_prefix _ q).trans (List.prefix_append q _)
  · have hfault := Dec.foldl_ends_then_character hrun hacc hk hm hq hend hshort
    refine ⟨_, List.prefix_rfl, ?_⟩
    rw [streamForm, ← List.append_assoc, hfault]
    nofun

/-- DECODE of a packed text with a space before a character, under ABSORB (R186, R188). -/
theorem Dec.pass_text_with_space {t : Buffer} {qt q : List Sym} (hqt : streamOf t = some qt) (hq : qt <+: q)
    (hmem : spaceCode ∈ t) (hlast : t.getLast? ≠ some spaceCode) :
    ∃ info, (Dec.pass .absorb (packed q)).status = .fault info := by
  obtain ⟨w, m, c, rest, rfl, hw, hm, hc⟩ := exists_spaces_before_character hmem hlast
  obtain ⟨qw, _, hqw, hafter, rfl⟩ := streamOf_append_eq_some hqt
  obtain ⟨qm, _, hqm, hchars, rfl⟩ := streamOf_append_eq_some hafter
  obtain rfl := Option.some.inj ((streamOf_spaces m).symm.trans hqm)
  obtain ⟨seq, qs, hfwd, _, rfl⟩ := streamOf_cons_eq_some hchars
  have hseq : seq ≠ [] := by
    obtain ⟨row, hrow, hcode, rfl⟩ := fwd_eq_some hfwd
    exact fun hnil => hc ((foldCode_eq_space_iff c).1 (hcode.symm.trans ((row_seq_eq_nil_iff row hrow).1 hnil)))
  obtain ⟨p, cur, htext⟩ := Dec.foldl_text (r := .absorb) (d := Dec.start (packed q)) hqw (.inr hw) rfl rfl
  obtain ⟨q', hq', hraise⟩ := Dec.exists_raise_after_ends (m := m) (q := seq)
    (d := { Dec.start (packed q) with ptr := p, cur := cur, out := (Dec.start (packed q)).out ++ upperText w })
    rfl rfl rfl hm hseq (symEnd_not_mem_of_fwd hfwd)
  refine Dec.pass_of_raising_prefix (q := qw ++ q') ?_ (by rw [List.foldl_append, htext]; exact hraise)
  have hread : q' <+: List.replicate m symEnd ++ (streamForm seq ++ qs) := hq'.trans ⟨qs, List.append_assoc _ _ _⟩
  rw [slotsOf_packed]
  exact ((List.prefix_append_right_inj qw).2 hread).trans (hq.trans (List.prefix_append _ _))

/-- Settles O40: the text's stream is that of its upper case; a space before a character raises, and the Ends at the end of the
stream, those of spaces and those of padding, are one space or none. -/
theorem roundTripUnderAbsorb : Obligations.RoundTripUnderAbsorb := by
  intro text t qt n s hr _ hupper hlast hqt
  have hq : streamOf text = some (qt ++ List.replicate n symEnd) := by
    rw [← streamOf_upperText, hupper, streamOf_append, hqt, streamOf_spaces]
    rfl
  have hslots := slotsOf_packed (qt ++ List.replicate n symEnd)
  rw [List.append_assoc, List.replicate_append_replicate, List.length_append, List.length_replicate] at hslots
  obtain ⟨u, hu, hret, hrule⟩ := exec_encode_of_streamOf hq s
  have hdecode := exec_decode (packed (qt ++ List.replicate n symEnd)) u
  rw [hrule, hr] at hdecode
  refine ⟨_, u, _, _, hu, hret, hdecode, rfl, fun hmem => ?space, fun hmem hn hlen => ?exact, fun hmem hn hlen => ?padded,
    fun hmem hn => ?spaces⟩
  case space =>
    obtain ⟨info, hfault⟩ := Dec.pass_text_with_space hqt (List.prefix_append _ _) hmem hlast
    exact ⟨info, Dec.result_of_fault hfault⟩
  all_goals rw [Dec.pass_text_absorb hslots hqt hmem, upperText_of_append hupper]
  case exact =>
    have hnone : n + padding (qt.length + n) = 0 := by
      simp only [padding, bytesFor]
      omega
    rw [hnone]
    exact congrArg _ (List.append_nil t)
  case padded =>
    have hsome : 1 ≤ n + padding (qt.length + n) := by
      simp only [padding, bytesFor]
      omega
    rw [Nat.min_eq_left hsome]
    rfl
  case spaces =>
    rw [Nat.min_eq_left (by omega)]
    rfl

end Sys2Proof.Machine

/-! PROOFS. The faults of the two units (spec/60_exceptions.md): a step that raises changes the status of its unit and nothing else,
and ENCODE raises at the first character of its text that is not supported. -/

namespace Sys2Proof.Machine

/-! ## A step that raises (R204) -/

/-- From RUN, a move of ENC that ends in a fault is the entry to that fault: PUTs write no status and ENC_DONE writes DONE. -/
theorem Enc.Moves.eq_raise {i : Instr} {e e' : Enc} {info : UnsupportedCharacter} (h : e.Moves i e')
    (hrun : e.status = .run) (hfault : e'.status = .fault info) : e' = e.raise info := by
  cases h with
  | row _ _ he =>
    obtain ⟨_, _, rfl⟩ := Enc.putChar_eq_some he
    exact nomatch hrun.symm.trans hfault
  | put _ he =>
    rw [(Enc.put_eq_some he).1] at hfault
    exact nomatch hrun.symm.trans hfault
  | char _ _ _ he =>
    rcases Enc.charStep_cases he with ⟨_, rfl⟩ | ⟨_, _, _, _, rfl⟩
    · rw [Status.fault.inj hfault]
    · exact nomatch hrun.symm.trans hfault
  | done => exact nomatch hfault

/-- EMIT, ACCUMULATE and SATURATE write no status, so a symbol step that ends in a fault raised it (R177). -/
theorem Dec.onSymbol_eq_raise {r : SpaceRule} {d : Dec} {v : Sym} {info : MalformedCode} (hrun : d.status = .run)
    (hfault : (d.onSymbol r v).status = .fault info) : d.onSymbol r v = d.raise info := by
  rcases Dec.onSymbol_cases r d v with ⟨_, _, _, hd⟩ | ⟨_, _, hd⟩ | ⟨_, _, hd⟩ | ⟨_, _, _, hd⟩ | ⟨_, _, _, hd⟩ <;>
    rw [hd] at hfault ⊢
  · exact nomatch hrun.symm.trans hfault
  · rw [Status.fault.inj hfault]
  · exact nomatch hrun.symm.trans hfault
  · exact nomatch hrun.symm.trans hfault
  · rw [Status.fault.inj hfault]

theorem Dec.atEnd_eq_raise {d : Dec} {info : MalformedCode} (hfault : d.atEnd.status = .fault info) :
    d.atEnd = d.raise info := by
  rcases d.atEnd_cases with ⟨_, hd⟩ | ⟨_, _, hd⟩ | ⟨_, _, hd⟩ <;> rw [hd] at hfault ⊢
  · exact nomatch hfault
  · exact nomatch hfault
  · rw [Status.fault.inj hfault]

/-- From RUN, a move of DEC that ends in a fault is the entry to that fault. -/
theorem Dec.Moves.eq_raise {r : SpaceRule} {i : Instr} {d d' : Dec} {info : MalformedCode} (h : d.Moves r i d')
    (hrun : d.status = .run) (hfault : d'.status = .fault info) : d' = d.raise info := by
  cases h with
  | row => exact nomatch hrun.symm.trans hfault
  | symbol => exact Dec.onSymbol_eq_raise hrun hfault
  | decSym => exact Dec.onSymbol_eq_raise hrun hfault
  | decEos => exact Dec.atEnd_eq_raise hfault

/-- Settles O56: of what an instruction can do, only a move of the unit itself changes that unit's status. -/
theorem raisingChangesTheStatusOnly : Obligations.RaisingChangesTheStatusOnly := by
  refine ⟨fun i s t info hpass hrun h hfault => ?enc, fun i s t info hpass hrun h hfault => ?dec⟩
  case enc =>
    cases exec_eq_next_iff.1 h with
    | enc _ hm =>
      rw [hm.eq_raise hrun hfault]
      rfl
    | encode hi => exact absurd hi (hpass _)
    | value => exact nomatch hrun.symm.trans hfault
    | dec => exact nomatch hrun.symm.trans hfault
    | decode => exact nomatch hrun.symm.trans hfault
  case dec =>
    cases exec_eq_next_iff.1 h with
    | dec _ hm =>
      rw [hm.eq_raise hrun hfault]
      rfl
    | decode hi => exact absurd hi (hpass _)
    | value => exact nomatch hrun.symm.trans hfault
    | enc => exact nomatch hrun.symm.trans hfault
    | encode => exact nomatch hrun.symm.trans hfault

/-! ## The first unsupported character of a text (R158, R205) -/

theorem supported_eq_true_iff {c : Byte} : supported c = true ↔ ∃ q, fwd (foldCode c) = some q :=
  Option.isSome_iff_exists

theorem supported_eq_false_iff {c : Byte} : supported c = false ↔ fwd (foldCode c) = none :=
  Option.isSome_eq_false_iff.trans Option.isNone_iff_eq_none

/-- A turn on a supported character moves the index by one and stays in RUN (R155, R156). -/
theorem Enc.turn_of_supported {e : Enc} {c : Byte} (hi : e.Inv) (hc : e.text[e.idx]? = some c) (hs : supported c = true) :
    ∃ cur out, e.turn = some { e with idx := e.idx + 1, cur := cur, out := out } := by
  obtain ⟨q, hq⟩ := supported_eq_true_iff.1 hs
  obtain ⟨e', he⟩ := Enc.putChar_isSome q (Memory.wf_indexable hi.packed)
  obtain ⟨p, _, rfl⟩ := Enc.putChar_eq_some he
  exact ⟨p.cur, p.out, (Enc.turn_below hc).trans ((Enc.charStep_of_supported hq).trans he)⟩

/-- A turn on an unsupported character raises at its index (R156, R201). -/
theorem Enc.turn_of_unsupported {e : Enc} {c : Byte} (hc : e.text[e.idx]? = some c) (hs : supported c = false) :
    e.turn = some (e.raise { index := e.idx, code := c }) :=
  (Enc.turn_below hc).trans (Enc.charStep_of_unsupported (supported_eq_false_iff.1 hs))

/-- ENCODE's loop, given enough turns, passes over the supported characters and raises at the first that is not. -/
theorem Enc.loop_of_unsupported {pre rest : Buffer} {c : Byte} {e : Enc} (n : Nat) (hi : e.Inv) (hrun : e.status = .run)
    (hrest : e.text.drop e.idx = pre ++ c :: rest) (hpre : ∀ x ∈ pre, supported x = true) (hc : supported c = false) :
    ∃ cur out, e.loop (n + pre.length + 1) = some
      ({ e with idx := e.idx + pre.length, cur := cur, out := out }.raise { index := e.idx + pre.length, code := c }) := by
  induction pre generalizing e with
  | nil =>
    have hhead : e.text[e.idx]? = some c := by rw [← List.head?_drop, hrest, List.nil_append, List.head?_cons]
    refine ⟨e.cur, e.out, ?_⟩
    rw [Enc.loop, if_pos hrun, Enc.turn_of_unsupported hhead hc]
    exact Enc.loop_ended (by simp) _
  | cons x pre ih =>
    obtain ⟨hx, hpre⟩ := List.forall_mem_cons.1 hpre
    have hhead : e.text[e.idx]? = some x := by rw [← List.head?_drop, hrest, List.cons_append, List.head?_cons]
    have htail : e.text.drop (e.idx + 1) = pre ++ c :: rest := by
      rw [← List.tail_drop, hrest, List.cons_append, List.tail_cons]
    obtain ⟨cur₁, out₁, hturn⟩ := Enc.turn_of_supported hi hhead hx
    obtain ⟨cur, out, hloop⟩ := ih (Enc.turn_keeps_inv hi hrun hturn) hrun htail hpre
    refine ⟨cur, out, ?_⟩
    have hidx : e.idx + (x :: pre).length = e.idx + 1 + pre.length := by rw [List.length_cons]; omega
    rw [Enc.loop, if_pos hrun, hturn, hidx]
    exact hloop

/-- Settles O28: the pass is the loop from the start of the text, and has more turns than the text has characters. -/
theorem encodeFaultsAtTheFirstUnsupported : Obligations.EncodeFaultsAtTheFirstUnsupported := by
  intro pre rest c s hpre hc
  obtain ⟨cur, out, hloop⟩ :=
    Enc.loop_of_unsupported (c :: rest).length (Enc.start_inv (pre ++ c :: rest)) rfl rfl hpre hc
  rw [Enc.start_idx, Nat.zero_add, Nat.add_comm (c :: rest).length, ← List.length_append] at hloop
  exact ⟨_, exec_encode_eq_next_iff.2 ⟨_, hloop, rfl⟩, rfl, rfl, rfl⟩

end Sys2Proof.Machine

/-! PROOFS. Reset and hazards (spec/70_reset_and_hazards.md): where reset puts the two units, and that a unit in RUN always has a
step that completes. -/

namespace Sys2Proof.Machine

/-! ## Reset (R220) -/

/-- Settles O45: reset is the start of ENC's pass on an empty text and of DEC's on an empty input, which are R29's values. -/
theorem resetIsTheStartOfEmptyPasses : Obligations.ResetIsTheStartOfEmptyPasses :=
  ⟨show Enc.start [] = _ from rfl, show Dec.start [] = _ from rfl, rfl⟩

/-! ## No stuck state (R223) -/

theorem eq_or_eq_otherUnit (u v : UnitId) : u = v ∨ u = otherUnit v := by
  cases u <;> cases v <;> simp [otherUnit]

/-- While a unit is in RUN, some unit moves: the selected one, or else the other (log 3). -/
theorem State.exists_mover {s : State} {u : UnitId} (hu : s.running u = true) : ∃ v, s.mover = some v := by
  by_cases hsel : s.running s.sel = true
  · exact ⟨s.sel, if_pos hsel⟩
  · have hother : u = otherUnit s.sel := (eq_or_eq_otherUnit u s.sel).resolve_left fun h => hsel (h ▸ hu)
    exact ⟨otherUnit s.sel, (if_neg hsel).trans (if_pos (hother ▸ hu))⟩

/-- ENC_CHAR completes below the end of the text: the canonical form of the output lets every PUT index a byte (R15, R154 b). -/
theorem exec_encChar_completes {s : State} (hi : s.enc.Inv) (hrun : s.enc.status = .run)
    (hlt : s.enc.idx < s.enc.text.length) : ∃ t, exec .encChar s = .next t := by
  obtain ⟨hputs, hraises⟩ := encCharPutsOrRaises s _ hrun (List.getElem?_eq_getElem hlt)
  cases hfwd : fwd (foldCode s.enc.text[s.enc.idx]) with
  | some q =>
    obtain ⟨_, _, hnext⟩ := hputs q hfwd (Memory.wf_indexable hi.packed)
    exact ⟨_, hnext⟩
  | none => exact ⟨_, hraises hfwd⟩

/-- Where ENC moves, the step is ENC_CHAR or ENC_DONE, and it completes (R156 to R158). -/
theorem safeStep_of_enc_moves {s : State} (hi : s.enc.Inv) (hm : s.mover = some .enc) : SafeStep s := by
  obtain ⟨hchar, hdone, _, _⟩ := stepIsTheEnabledStepOfTheSpec s
  have hrun := State.enc_status_of_mover hm
  rcases hi.idx_le.lt_or_eq with hlt | hend
  · obtain ⟨t, ht⟩ := exec_encChar_completes hi hrun hlt
    exact ⟨t, (hchar hm hlt).trans ht⟩
  · exact ⟨_, (hdone hm hend).trans (encDoneEndsThePass s hrun hend)⟩

/-- Where DEC moves, the step is DEC_SYM or DEC_EOS, and it completes (R172). -/
theorem safeStep_of_dec_moves {s : State} (hi : s.dec.Inv s.spaceRule) (hm : s.mover = some .dec) : SafeStep s := by
  obtain ⟨_, _, hsym, heos⟩ := stepIsTheEnabledStepOfTheSpec s
  have hrun := State.dec_status_of_mover hm
  rcases hi.ptr_le.lt_or_eq with hlt | hend
  · exact ⟨_, (hsym hm hlt).trans (exec_decSym_eq_turn hrun hlt)⟩
  · exact ⟨_, (heos hm hend).trans (exec_decEos_eq_turn hrun hend)⟩

/-- Settles O51: a unit moves, and its pointer, which the invariant keeps inside its input or at its end, enables one of its two
steps. -/
theorem runningUnitIsNeverStuck : Obligations.RunningUnitIsNeverStuck := by
  intro s hi hrun
  have hrunning : ∃ u, s.running u = true := by
    rcases hrun with hE | hD
    · exact ⟨.enc, beq_iff_eq.2 hE⟩
    · exact ⟨.dec, beq_iff_eq.2 hD⟩
  obtain ⟨u, hu⟩ := hrunning
  obtain ⟨v, hm⟩ := State.exists_mover hu
  cases v with
  | enc => exact safeStep_of_enc_moves hi.enc hm
  | dec => exact safeStep_of_dec_moves hi.dec hm

end Sys2Proof.Machine
